-- ==== Sys2Proof/Word.lean ====
section
/-!
DEFINITION. The words of the block: a 32-bit word, a byte, and an array of 16 words (spec 00_scope.md R6, R7; 10_state.md R21).
-/

namespace Sys2Proof

/-- A byte, `w[8j+7:8j]` of a word (R7). -/
abbrev Byte := BitVec 8

/-- An unsigned 32-bit word (R7). -/
abbrev Word := BitVec 32

/-- "A flat array of 16 words" (R21): the shape of `S`, of `B` and of the scratch buffer. -/
abbrev Block := Vector Word 16

end Sys2Proof
end

