-- ==== Sys2Proof/Machine/Arx.lean ====
section
/-!
DEFINITION. The ARX permutation (40_permutation.md R80 to R92): word arithmetic, quarter-round, rounds, double-round, `Perm20`.
All are pure functions of words or of a 16-word scratch buffer.
-/

namespace Sys2Proof.Machine

/-- `(a + b) mod 2^32`, the carry dropped (R81). -/
def add32 (a b : Word) : Word := a + b

/-- Left rotation by a constant; the block uses 7, 9, 13 and 18 (R82; amounts outside 1 to 31 never occur, log entry 6). -/
def rotl32 (v : Word) (n : Nat) : Word := v.rotateLeft n

/-- Bitwise exclusive or (R83). -/
def xor32 (a b : Word) : Word := a ^^^ b

/-- The quarter-round as a pure function of four words (R84, second form). -/
def quarterRound (a0 b0 c0 d0 : Word) : Word × Word × Word × Word :=
  let b1 := xor32 b0 (rotl32 (add32 a0 d0) 7)
  let c1 := xor32 c0 (rotl32 (add32 b1 a0) 9)
  let d1 := xor32 d0 (rotl32 (add32 c1 b1) 13)
  let a1 := xor32 a0 (rotl32 (add32 d1 c1) 18)
  (a1, b1, c1, d1)

/-- `QR(x, a, b, c, d)`: the quarter-round in place on four positions of the buffer, "in this exact order" (R84). -/
def qr (x : Block) (a b c d : Fin 16) : Block :=
  let x := x.set b (xor32 x[b] (rotl32 (add32 x[a] x[d]) 7))
  let x := x.set c (xor32 x[c] (rotl32 (add32 x[b] x[a]) 9))
  let x := x.set d (xor32 x[d] (rotl32 (add32 x[c] x[b]) 13))
  x.set a (xor32 x[a] (rotl32 (add32 x[d] x[c]) 18))

/-- `ColumnRound(x)` (R85). -/
def columnRound (x : Block) : Block :=
  let x := qr x 0 4 8 12
  let x := qr x 5 9 13 1
  let x := qr x 10 14 2 6
  qr x 15 3 7 11

/-- `RowRound(x)` (R86). -/
def rowRound (x : Block) : Block :=
  let x := qr x 0 1 2 3
  let x := qr x 5 6 7 4
  let x := qr x 10 11 8 9
  qr x 15 12 13 14

/-- `DoubleRound(x)`: the column round, then the row round (R87). -/
def doubleRound (x : Block) : Block := rowRound (columnRound x)

/-- The double-round applied `n` times. -/
def doubleRounds : Nat → Block → Block
  | 0, x => x
  | n + 1, x => doubleRounds n (doubleRound x)

/-- `Perm20(x)`: "the double-round exactly 10 times" (R88; 90_conflicts.md C4). Irreducible, so that no comparison of two states
unfolds 320 steps; `perm20_eq` says what it is, and the kernel evaluates it all the same. -/
@[irreducible] def perm20 (x : Block) : Block := doubleRounds 10 x

end Sys2Proof.Machine
end

