-- ==== Sys2Proof/Config.lean ====
section
/-!
DEFINITION. What the spec leaves free: the words of `S` and `B` that it calls unspecified, "a free draw" (10_state.md R36,
42_commands.md R121, 93_implementation_defined.md U5, U6). The other open parameters of 00_scope.md R6 (`LAT`, reset polarity)
have no effect on any rule and no constant here.
-/

namespace Sys2Proof.Config

/-- The `n`-th free word. It has no body, so no proof can learn its value (log entries 1 and 3). -/
opaque freeWord : Nat → Word

/-- Sixteen consecutive free words, the draws `n` to `n + 15`. Irreducible: no proof has anything to gain from unfolding it. -/
@[irreducible] def freeBlock (n : Nat) : Block :=
  Vector.ofFn fun i : Fin 16 => freeWord (n + i.val)

end Sys2Proof.Config
end

