-- ==== Sys2Proof/Syntax.lean ====
section
/-!
DEFINITION. The commands, one constructor per row of spec/opcode_table.json, each with the operand ports it uses
(30_encoding.md R60, R61).
-/

namespace Sys2Proof

/-- A decoded command. -/
inductive Instr where
  /-- `INIT`, op 1: construction from the `key` and `nonce` ports (R121). -/
  | init (key : BitVec 256) (nonce : BitVec 64)
  /-- `PROC`, op 2: encrypt or decrypt the word on `din` (R122). -/
  | proc (din : Word)
  /-- `RSTCTR`, op 3: reset the block counter (R123). -/
  | rstctr
  /-- `RSTCUR`, op 4: reset the cursor (R124). -/
  | rstcur
  /-- `RST`, op 5: reset both (R125). -/
  | rst
  /-- Reserved opcode 0 (R126). -/
  | reserved0
  /-- Reserved opcode 6 (R126). -/
  | reserved6
  /-- Reserved opcode 7 (R126). -/
  | reserved7
deriving DecidableEq, Repr

end Sys2Proof
end

