-- ==== Sys2Proof/WellFormed.lean ====
section
/-!
DEFINITION. Well-formedness. At the ports every command is well formed: the widths are in the types and "every key and nonce
value is legal" (42_commands.md R121, 60_exceptions.md R140). What can be ill formed is what a host holds BEFORE it drives the
ports: a key, a nonce or a buffer given as bytes, or an opcode given as a digit (R140, 20_memory.md R46, 30_encoding.md R66).
-/

namespace Sys2Proof

/-- Every command record is well formed: no operand value is illegal (R121, R122, R140). -/
def Instr.wellFormed : Instr → Bool
  | .init _ _ => true
  | .proc _ => true
  | .rstctr => true
  | .rstcur => true
  | .rst => true
  | .reserved0 => true
  | .reserved6 => true
  | .reserved7 => true

/-- A key given as bytes has exactly 32 of them; the host-side check of `InvalidKeyLength` (R140). -/
def keyBytesOk (bytes : List Byte) : Bool := bytes.length == 32

/-- A nonce given as bytes has exactly 8 of them; the host-side check of `InvalidNonceLength` (R140). -/
def nonceBytesOk (bytes : List Byte) : Bool := bytes.length == 8

/-- A buffer given as bytes is a whole number of 32-bit words; the host-side check of `UnalignedInput` (R46, R140). -/
def bufferOk (bytes : List Byte) : Bool := bytes.length % 4 == 0

/-- The operand of the script line `OP d` is a digit 0 to 7 (R66). -/
def opDigitOk (d : Nat) : Bool := decide (d < 8)

end Sys2Proof
end

