-- ==== Sys2Proof/Decode.lean ====
section
/-!
DEFINITION. The command record and its encoding (30_encoding.md R60, R61, R63, R65, R68): the flat 355-bit vector
`op ∥ key ∥ nonce ∥ din`, the decoder over it, the encoder, and the rows of spec/opcode_table.json as masks and patterns.
-/

namespace Sys2Proof

/-- The record of four fields sampled at acceptance (R60). -/
structure Command where
  op : BitVec 3
  key : BitVec 256
  nonce : BitVec 64
  din : Word
deriving DecidableEq, Repr

/-- The record as one vector: `op` = bits 354:352, `key` = 351:96, `nonce` = 95:32, `din` = 31:0 (R60). -/
def Command.flat (c : Command) : BitVec 355 := c.op ++ c.key ++ c.nonce ++ c.din

/-- The fields of a flat vector (R60). -/
def Command.ofFlat (w : BitVec 355) : Command where
  op := w.extractLsb' 352 3
  key := w.extractLsb' 96 256
  nonce := w.extractLsb' 32 64
  din := w.extractLsb' 0 32

/-- The opcode map (R61, R63); "decode is a function of the three bits of `op` alone" (R65). The last case is `op` = 7. -/
def decodeCommand (c : Command) : Instr :=
  if c.op = 0b000#3 then .reserved0
  else if c.op = 0b001#3 then .init c.key c.nonce
  else if c.op = 0b010#3 then .proc c.din
  else if c.op = 0b011#3 then .rstctr
  else if c.op = 0b100#3 then .rstcur
  else if c.op = 0b101#3 then .rst
  else if c.op = 0b110#3 then .reserved6
  else .reserved7

/-- The decoder over the flat vector. It is total, as the opcode table is (R68). -/
def decode (w : BitVec 355) : Instr := decodeCommand (Command.ofFlat w)

/-- The one way a number is no command record: it does not fit the 355 bits of R60. -/
inductive DecodeError where
  | widerThanACommand
deriving DecidableEq, Repr

/-- The record a number stands for, its bits numbered as the flat vector's (R60, R68). -/
def Command.ofNat (n : Nat) : Command where
  op := BitVec.ofNat 3 (n >>> 352)
  key := BitVec.ofNat 256 (n >>> 96)
  nonce := BitVec.ofNat 64 (n >>> 32)
  din := BitVec.ofNat 32 n

/-- The decoder over any number; what is wider than a record is rejected by name (log entry 9). -/
def decodeNat (n : Nat) : Except DecodeError Instr :=
  if n >>> 355 = 0 then .ok (decodeCommand (Command.ofNat n)) else .error .widerThanACommand

/-- The value of `op` that selects a command (R61). -/
def Instr.op : Instr → BitVec 3
  | .reserved0 => 0b000#3
  | .init _ _ => 0b001#3
  | .proc _ => 0b010#3
  | .rstctr => 0b011#3
  | .rstcur => 0b100#3
  | .rst => 0b101#3
  | .reserved6 => 0b110#3
  | .reserved7 => 0b111#3

/-- The record a host drives for a command; fields the command does not use "need not be driven" (R60) and are 0 here. -/
def encodeCommand : Instr → Command
  | .init key nonce => ⟨0b001#3, key, nonce, 0⟩
  | .proc din => ⟨0b010#3, 0, 0, din⟩
  | .rstctr => ⟨0b011#3, 0, 0, 0⟩
  | .rstcur => ⟨0b100#3, 0, 0, 0⟩
  | .rst => ⟨0b101#3, 0, 0, 0⟩
  | .reserved0 => ⟨0b000#3, 0, 0, 0⟩
  | .reserved6 => ⟨0b110#3, 0, 0, 0⟩
  | .reserved7 => ⟨0b111#3, 0, 0, 0⟩

/-- The flat encoding of a command (R60, R61). -/
def encode (i : Instr) : BitVec 355 := (encodeCommand i).flat

/-- The mnemonic of a command in spec/opcode_table.json. -/
def Instr.mnemonic : Instr → String
  | .init _ _ => "INIT"
  | .proc _ => "PROC"
  | .rstctr => "RSTCTR"
  | .rstcur => "RSTCUR"
  | .rst => "RST"
  | .reserved0 => "RESERVED0"
  | .reserved6 => "RESERVED6"
  | .reserved7 => "RESERVED7"

/-- A row of spec/opcode_table.json: a command `c` is that row when `c and mask = pattern` (R68). -/
structure OpcodeRow where
  mnemonic : String
  mask : BitVec 355
  pattern : BitVec 355
deriving DecidableEq, Repr

/-- The mask of every row: the three bits of `op`. -/
def opMask : BitVec 355 := 0b111#3 ++ 0#352

/-- The row with the given opcode value. -/
def opcodeRow (mnemonic : String) (op : BitVec 3) : OpcodeRow :=
  ⟨mnemonic, opMask, op ++ 0#352⟩

/-- The rows of spec/opcode_table.json, in its order. -/
def opcodeTable : List OpcodeRow :=
  [ opcodeRow "INIT" 1, opcodeRow "PROC" 2, opcodeRow "RSTCTR" 3, opcodeRow "RSTCUR" 4, opcodeRow "RST" 5,
    opcodeRow "RESERVED0" 0, opcodeRow "RESERVED6" 6, opcodeRow "RESERVED7" 7 ]

/-- Whether a flat vector is that row's (R68). -/
def OpcodeRow.selects (r : OpcodeRow) (w : BitVec 355) : Bool := (w &&& r.mask) == r.pattern

/-- What the decoder reads from the `nbits` bits of `w`, numbered as spec/opcode_table.json numbers them (bit 0 is bit 0 of
`din`); every bit from `nbits` up is 0. -/
def decodeTableWord (nbits w : Nat) : Option Instr :=
  if w >>> nbits = 0 then
    match decodeNat w with
    | .ok i => some i
    | .error _ => none
  else none

end Sys2Proof
end

