-- ==== Sys2Proof/Machine/State.lean ====
section
/-!
DEFINITION. The state. `Engine` is the spec's architectural state, "the five elements of this table and nothing else"
(10_state.md R20). `State` puts it beside what the host has yet to drive, the response ports, and the model's own record of
responses and count of free draws. Plain data throughout.
-/

namespace Sys2Proof.Machine

/-- The response status (30_encoding.md R64). -/
inductive Status where
  /-- The command was executed as its rule says. -/
  | ok
  /-- Refused: `keyed = 0` and the command is not INIT. -/
  | errNotKeyed
  /-- Refused: RSTCUR while `bvalid = 0`. -/
  | errNoBlock
  /-- Refused: reserved opcode. -/
  | errIllegalOp
deriving DecidableEq, Repr

/-- The response of a command: `rsp_status` and `dout` (R64). -/
structure Response where
  status : Status
  dout : Word
deriving DecidableEq, Repr

/-- What the host drives on the input ports for one step (20_memory.md R41): the reset request, whether a command is offered,
and the command record. -/
structure PortSample where
  rst : Bool
  cmdValid : Bool
  cmd : Command
deriving DecidableEq, Repr

/-- The complete architectural state of the engine (10_state.md R20): 16·32 + 16·32 + 5 + 1 + 1 = 1031 bits. -/
structure Engine where
  /-- The State array: constants, key, nonce, block counter (R21, R22). -/
  S : Block
  /-- The current keystream block (R26). -/
  B : Block
  /-- Words of `B` already consumed, 0 to 16, "held in 5 bits" (R28). -/
  cursor : BitVec 5
  /-- 1 after a successful INIT (R29). -/
  keyed : Bool
  /-- 1 when `B` holds a block generated since the last INIT (R30). -/
  bvalid : Bool
deriving DecidableEq, Repr

/-- The whole state of the model. -/
structure State where
  /-- The engine's architectural state. -/
  eng : Engine
  /-- What the host will still drive, the next sample first (the model's own field, log entry 2). -/
  inputs : List PortSample
  /-- The response ports: `none` is `rsp_valid = 0` (R41, R53). -/
  rsp : Option Response
  /-- The responses since the last hardware reset, the first one first (the model's own field, R49, R144, log entry 4). -/
  history : List Response
  /-- How many free words have been drawn (the model's own field, log entry 3). -/
  draws : Nat
deriving DecidableEq, Repr

/-- Why the machine stops. The spec has no machine fault: refusals are responses (60_exceptions.md R144). -/
inductive Fault where
  /-- Raised by PROC alone, in a state whose cursor is 17 to 31, "never reached" (R28). Safe: the spec gives such a state no
  behaviour, and no step from a state of R37 leads to one (log entry 5). -/
  | cursorOutOfRange
deriving DecidableEq, Repr

/-- Why the model gives no meaning. -/
inductive Refusal where
  /-- Raised by no arm of `exec`: every command has its meaning. Safe: the machine only stops. -/
  | notModelled (mnemonic : String)
deriving DecidableEq, Repr

/-- The machine right after hardware reset (R36, 70_reset_and_hazards.md R160): unkeyed, no block, cursor 16, no response
pending, `S` and `B` free words (log entry 1). -/
def State.reset : State where
  eng :=
    { S := Config.freeBlock 0
      B := Config.freeBlock 16
      cursor := 16
      keyed := false
      bvalid := false }
  inputs := []
  rsp := none
  history := []
  draws := 32

end Sys2Proof.Machine
end

