-- ==== Sys2Proof/Machine/Operands.lean ====
section
/-!
DEFINITION. Operand assembly and byte order (20_memory.md R42 to R45, 30_encoding.md R62), the constant words (10_state.md R23)
and the layout of the State array (R22).
-/

namespace Sys2Proof.Machine

/-- Key word `i`: `key[32i+31:32i]`, `i` = 0 to 7 (R43, R62). -/
def keyWord (key : BitVec 256) (i : Nat) : Word := key.extractLsb' (32 * i) 32

/-- Nonce word `i`: `nonce[32i+31:32i]`, `i` = 0, 1 (R43, R62). -/
def nonceWord (nonce : BitVec 64) (i : Nat) : Word := nonce.extractLsb' (32 * i) 32

/-- `C0`, at State index 0 (R23). -/
def sigma0 : Word := 0x61707865
/-- `C1`, at State index 5 (R23). -/
def sigma1 : Word := 0x3320646e
/-- `C2`, at State index 10 (R23). -/
def sigma2 : Word := 0x79622d32
/-- `C3`, at State index 15 (R23). -/
def sigma3 : Word := 0x6b206574

/-- The low word of a counter value, `c[31:0]` (R43). -/
def ctrLow (c : BitVec 64) : Word := c.extractLsb' 0 32

/-- The high word of a counter value, `c[63:32]` (R43). -/
def ctrHigh (c : BitVec 64) : Word := c.extractLsb' 32 32

/-- The State array of a key, a nonce and a counter value (R22; `State(k, n, c)` of 41_block_generator.md R107). -/
def stateArray (key : BitVec 256) (nonce : BitVec 64) (c : BitVec 64) : Block :=
  #v[sigma0,        keyWord key 0, keyWord key 1,   keyWord key 2,
     keyWord key 3, sigma1,        nonceWord nonce 0, nonceWord nonce 1,
     ctrLow c,      ctrHigh c,     sigma2,          keyWord key 4,
     keyWord key 5, keyWord key 6, keyWord key 7,   sigma3]

/-- Byte `j` of a word, `w[8j+7:8j]` (00_scope.md R7). -/
def byteOfWord (w : Word) (j : Nat) : Byte := w.extractLsb' (8 * j) 8

/-- The word of four bytes, the first in the least significant lane (R42, R44). -/
def wordOfBytes (b0 b1 b2 b3 : Byte) : Word := b3 ++ b2 ++ b1 ++ b0

/-- The bytes of a word as a host's buffer holds them (R44). -/
def bytesOfWord (w : Word) : List Byte :=
  [byteOfWord w 0, byteOfWord w 1, byteOfWord w 2, byteOfWord w 3]

/-- A byte string read as one little-endian integer (R43). -/
def leNat : List Byte → Nat
  | [] => 0
  | b :: bs => b.toNat + 256 * leNat bs

/-- The `key` port for key bytes in host order (R42, R43). -/
def keyOfBytes (bytes : List Byte) : BitVec 256 := BitVec.ofNat 256 (leNat bytes)

/-- The `nonce` port for nonce bytes in host order (R42, R43). -/
def nonceOfBytes (bytes : List Byte) : BitVec 64 := BitVec.ofNat 64 (leNat bytes)

/-- Keystream byte `j` (0 to 63) of a block: byte `j mod 4` of word `j div 4` (R45). -/
def keystreamByte (b : Block) (j : Fin 64) : Byte :=
  byteOfWord b[j.val / 4] (j.val % 4)

end Sys2Proof.Machine
end

