-- ==== Sys2Proof/Machine/BlockGen.lean ====
section
/-!
DEFINITION. Block generation and the block counter (41_block_generator.md R100 to R108). `generateBlock` is internal: PROC,
RSTCTR and RST reach it.
-/

namespace Sys2Proof.Machine

/-- `Salsa20Block(T)`: the permutation of a copy, plus the feed-forward of `T` itself, word by word (R101). -/
def salsa20Block (t : Block) : Block := Vector.zipWith add32 (perm20 t) t

/-- The counter held in words 8 (low) and 9 (high) of a State array (10_state.md R24). -/
def ctrOf (s : Block) : BitVec 64 := s[9] ++ s[8]

/-- Words 8 and 9 of a State array replaced by a counter value (R24, R43). -/
def withCtr (s : Block) (c : BitVec 64) : Block := (s.set 8 (ctrLow c)).set 9 (ctrHigh c)

/-- `CtrInc`: the counter plus 1 modulo 2^64, silently (R102, R103). -/
def ctrInc (s : Block) : Block := withCtr s (ctrOf s + 1)

/-- `Block(k, n, c)` (R107). -/
def keystreamBlock (key : BitVec 256) (nonce : BitVec 64) (c : BitVec 64) : Block :=
  salsa20Block (stateArray key nonce c)

/-- `GenerateBlock()`: the block of the old counter value, then the increment, then cursor 0 and `bvalid` 1 (R104). -/
def generateBlock (e : Engine) : Engine :=
  { e with
    B := salsa20Block e.S
    S := ctrInc e.S
    cursor := 0
    bvalid := true }

/-- The counter set to 0, then a block generated: the common part of RSTCTR and RST (42_commands.md R123, R125). -/
def restartKeystream (e : Engine) : Engine :=
  generateBlock { e with S := withCtr e.S 0 }

end Sys2Proof.Machine
end

