-- ==== Sys2Proof/Machine/Flags.lean ====
section
/-!
DEFINITION. The conditions commands test and the codes they answer. There are no arithmetic flags (10_state.md R32); the only
flag-like state is `keyed` and `bvalid`, the only datapath condition is `cursor == 16` (R32, 42_commands.md R131).
-/

namespace Sys2Proof.Machine

/-- The 2-bit code of a status (30_encoding.md R64). -/
def Status.code : Status → BitVec 2
  | .ok => 0b00#2
  | .errNotKeyed => 0b01#2
  | .errNoBlock => 0b10#2
  | .errIllegalOp => 0b11#2

/-- "Block exhausted": `cursor == 16` (R28). -/
def exhausted (e : Engine) : Bool := e.cursor == 16

/-- The check before every defined command but INIT: refused while `keyed = 0` (R120, R141). -/
def keyedCheck (e : Engine) : Option Status :=
  if e.keyed then none else some .errNotKeyed

/-- The checks before RSTCUR, in the order of R120 and R143: not keyed, then no block. -/
def blockCheck (e : Engine) : Option Status :=
  if e.keyed then (if e.bvalid then none else some .errNoBlock) else some .errNotKeyed

end Sys2Proof.Machine
end

