-- ==== Sys2Proof/Machine/Ops.lean ====
section
/-!
DEFINITION. The named operations every command is built from: giving a response, refusing (the spec's "trap entry"), hardware
reset, idling, and taking the next sample of the input ports. There is no return from a refusal (60_exceptions.md R147).
-/

namespace Sys2Proof.Machine

/-- `respond(status, dout)`: exactly one response, on the ports and in the record (00_scope.md R8, 20_memory.md R53). -/
def respond (st : Status) (dout : Word) (s : State) : State :=
  { s with
    rsp := some ⟨st, dout⟩
    history := s.history ++ [⟨st, dout⟩] }

/-- `refuse(status)`: the response with `dout = 0` and "no write to any architectural state" (R8, 60_exceptions.md R144). -/
def refuse (st : Status) (s : State) : State := respond st 0 s

/-- Completion of a command that has no output word: `respond(OK, 0)` from the engine state it leaves. -/
def complete (e : Engine) (s : State) : State := respond .ok 0 { s with eng := e }

/-- A command behind its checks: refused with the status they give, else executed (42_commands.md R120). -/
def guarded (check : Option Status) (s : State) (run : Host.Outcome State Fault Refusal) :
    Host.Outcome State Fault Refusal :=
  match check with
  | some st => .next (refuse st s)
  | none => run

/-- The event `HWRESET` (70_reset_and_hazards.md R160, 10_state.md R36): flags and cursor at their reset values, `S` and `B` free
draws, no response, and "the numbering of responses restarts". -/
def hwReset (s : State) : State :=
  { s with
    eng :=
      { S := Config.freeBlock s.draws
        B := Config.freeBlock (s.draws + 16)
        cursor := 16
        keyed := false
        bvalid := false }
    rsp := none
    history := []
    draws := s.draws + 32 }

/-- No command offered: "the engine does nothing and no state changes", and no response is presented (R53). -/
def idle (s : State) : State := { s with rsp := none }

/-- The input ports of a host that offers nothing. -/
def PortSample.idle : PortSample := ⟨false, false, ⟨0, 0, 0, 0⟩⟩

/-- The input ports of a host that offers a command record. -/
def PortSample.offer (c : Command) : PortSample := ⟨false, true, c⟩

/-- The input ports of a host that asserts hardware reset. -/
def PortSample.hwreset : PortSample := ⟨true, false, ⟨0, 0, 0, 0⟩⟩

/-- The sample of the input ports that the next step sees, and the state with it taken; a host with nothing left to drive is
idle (log entry 2). -/
def takeSample (s : State) : PortSample × State :=
  match s.inputs with
  | [] => (PortSample.idle, s)
  | p :: rest => (p, { s with inputs := rest })

end Sys2Proof.Machine
end

