-- ==== Sys2Proof/Machine/Init.lean ====
section
/-!
DEFINITION. The construction command INIT (42_commands.md R121).
-/

namespace Sys2Proof.Machine

/-- A fresh engine: `S` from the key and nonce with counter 0, cursor 16, keyed, no block; `b` is what `B` then holds (R121). -/
def freshEngine (key : BitVec 256) (nonce : BitVec 64) (b : Block) : Engine where
  S := stateArray key nonce 0
  B := b
  cursor := 16
  keyed := true
  bvalid := false

/-- `INIT`: a complete new construction in every state, never refused; `B` becomes unspecified, sixteen free words (R121, log
entry 3). Lazy: no block is generated (90_conflicts.md C1). -/
def execInit (key : BitVec 256) (nonce : BitVec 64) (s : State) : Host.Outcome State Fault Refusal :=
  .next (complete (freshEngine key nonce (Config.freeBlock s.draws)) { s with draws := s.draws + 16 })

end Sys2Proof.Machine
end

