-- ==== Sys2Proof/Machine/Proc.lean ====
section
/-!
DEFINITION. The data command PROC (42_commands.md R122): one word of input XOR one word of keystream.
-/

namespace Sys2Proof.Machine

/-- "If cursor == 16: call `generate_block()`": the engine as PROC reads its keystream word (R122). -/
def readyBlock (e : Engine) : Engine := if exhausted e then generateBlock e else e

/-- The keystream word at the cursor, if the cursor is an index of `B` (42_commands.md R132). -/
def keystreamWord (e : Engine) : Option Word := e.B[e.cursor.toNat]?

/-- One word consumed: `cursor <- cursor + 1` (R122). -/
def advanceCursor (e : Engine) : Engine := { e with cursor := e.cursor + 1 }

/-- The step of an engine that is keyed: consume one keystream word. A cursor above 16 is never reached (R28, log entry 5). -/
def consumeWord (din : Word) (s : State) : Host.Outcome State Fault Refusal :=
  let e := readyBlock s.eng
  match keystreamWord e with
  | some z => .next (respond .ok (xor32 din z) { s with eng := advanceCursor e })
  | none => .fault .cursorOutOfRange

/-- `PROC` (R122). -/
def execProc (din : Word) (s : State) : Host.Outcome State Fault Refusal :=
  guarded (keyedCheck s.eng) s (consumeWord din s)

end Sys2Proof.Machine
end

