-- ==== Sys2Proof/Machine/Reserved.lean ====
section
/-!
DEFINITION. The reserved opcodes 0, 6 and 7 (42_commands.md R126, 30_encoding.md R63): accepted, and answered with
`ERR_ILLEGAL_OP` in every state, before any check of `keyed` (R120, R143).
-/

namespace Sys2Proof.Machine

/-- Reserved opcode 0: `refuse(ERR_ILLEGAL_OP)` (R126). -/
def execReserved0 (s : State) : Host.Outcome State Fault Refusal := .next (refuse .errIllegalOp s)

/-- Reserved opcode 6: `refuse(ERR_ILLEGAL_OP)` (R126). -/
def execReserved6 (s : State) : Host.Outcome State Fault Refusal := .next (refuse .errIllegalOp s)

/-- Reserved opcode 7: `refuse(ERR_ILLEGAL_OP)` (R126). -/
def execReserved7 (s : State) : Host.Outcome State Fault Refusal := .next (refuse .errIllegalOp s)

end Sys2Proof.Machine
end

