-- ==== Sys2Proof/Machine/Resets.lean ====
section
/-!
DEFINITION. The rewinding commands RSTCTR, RSTCUR and RST (42_commands.md R123, R124, R125).
-/

namespace Sys2Proof.Machine

/-- The cursor set to 0, "without regenerating the block" (R124). -/
def rewindCursor (e : Engine) : Engine := { e with cursor := 0 }

/-- `RSTCTR`: counter to 0, then generate at once, so that the counter afterwards reads 1 (R123). -/
def execRstctr (s : State) : Host.Outcome State Fault Refusal :=
  guarded (keyedCheck s.eng) s (.next (complete (restartKeystream s.eng) s))

/-- `RSTCUR`: refused while there is no block, else the cursor to 0 and nothing else (R124). -/
def execRstcur (s : State) : Host.Outcome State Fault Refusal :=
  guarded (blockCheck s.eng) s (.next (complete (rewindCursor s.eng) s))

/-- `RST`: RSTCTR's work, then RSTCUR's, in one atomic step with one response (R125). -/
def execRst (s : State) : Host.Outcome State Fault Refusal :=
  guarded (keyedCheck s.eng) s (.next (complete (rewindCursor (restartKeystream s.eng)) s))

end Sys2Proof.Machine
end

