-- ==== Sys2Proof/Machine/Dispatch.lean ====
section
/-!
DEFINITION. The dispatch: one arm per constructor of Instr, each one direct call of its meaning.
-/

namespace Sys2Proof.Machine

def exec (i : Instr) (s : State) : Host.Outcome State Fault Refusal :=
  match i with
  | .init key nonce => Sys2Proof.Machine.execInit key nonce s
  | .proc din => Sys2Proof.Machine.execProc din s
  | .rstctr => Sys2Proof.Machine.execRstctr s
  | .rstcur => Sys2Proof.Machine.execRstcur s
  | .rst => Sys2Proof.Machine.execRst s
  | .reserved0 => Sys2Proof.Machine.execReserved0 s
  | .reserved6 => Sys2Proof.Machine.execReserved6 s
  | .reserved7 => Sys2Proof.Machine.execReserved7 s

end Sys2Proof.Machine
end

