-- ==== Sys2Proof/Machine/Accept.lean ====
section
/-!
DEFINITION. What the engine does with one sample of its input ports (20_memory.md R53, 70_reset_and_hazards.md R160): hardware
reset first, then an offered command as one atomic step, else nothing.
-/

namespace Sys2Proof.Machine

/-- One sample of the ports. Reset "has priority over any command": a command offered in the same sample is lost without response
(R143, R160, log entry 7). Else an offered command is accepted, decoded and executed; else the engine is idle. -/
def onSample (p : PortSample) (s : State) : Host.Outcome State Fault Refusal :=
  if p.rst then .next (hwReset s)
  else if p.cmdValid then exec (decodeCommand p.cmd) s
  else .next (idle s)

end Sys2Proof.Machine
end

