-- ==== Sys2Proof/Machine/Step.lean ====
section
/-!
DEFINITION. One step: the next sample of the input ports is taken and acted on.
-/

namespace Sys2Proof.Machine

/-- One step of the engine (00_scope.md R9, 20_memory.md R53). -/
def step (s : State) : Host.Outcome State Fault Refusal :=
  onSample (takeSample s).1 (takeSample s).2

/-- The state whose next step is offered the command that spec/opcode_table.json numbers `w`, a number whose bits above the
row's are 0. The engine fetches nothing (10_state.md R31): a command is placed by having the host offer it (log entry 2). -/
def State.withFetchWord (s : State) (_nbits w : Nat) : State :=
  { s with inputs := PortSample.offer (Command.ofNat w) :: s.inputs }

end Sys2Proof.Machine
end

