-- ==== Sys2Proof/Machine/Ports.lean ====
section
/-!
DEFINITION. What the host sees on the output ports between two steps (20_memory.md R41, R53, R54).
-/

namespace Sys2Proof.Machine

/-- `cmd_ready`: the engine is idle at every step boundary, since a command is one atomic step (R47, R53; 70 R160). -/
def cmdReady (_ : State) : Bool := true

/-- `rsp_valid` (R53). -/
def rspValid (s : State) : Bool := s.rsp.isSome

/-- `rsp_status`, while a response is presented (R64). -/
def rspStatus (s : State) : Option Status := s.rsp.map Response.status

/-- The word on the `dout` port: the response's, and 0 while none is presented: "the XOR result for an OK PROC, otherwise 0" (R41,
R64). -/
def dout (s : State) : Word :=
  match s.rsp with
  | some r => r.dout
  | none => 0

/-- The `ctr` port: "an observation function of the state defined when `keyed = 1`" (R54; 93_implementation_defined.md U7). -/
def ctrPort (s : State) : Option (BitVec 64) :=
  if s.eng.keyed then some (ctrOf s.eng.S) else none

end Sys2Proof.Machine
end

