-- ==== Sys2Proof/Machine/Script.lean ====
section
/-!
DEFINITION. The host's side of the interface: the script notation and its pseudo-commands (30_encoding.md R66, R67), byte buffers
(20_memory.md R44, R46), and the source's three errors, which only a host-side wrapper can meet (60_exceptions.md R140). Nothing
here is engine state; a script's meaning is a list of port samples.
-/

namespace Sys2Proof.Machine

/-- Why a host-side wrapper drives no port. The first three are the source's errors (R140). -/
inductive ScriptError where
  /-- The key is not exactly 32 bytes. -/
  | invalidKeyLength
  /-- The nonce is not exactly 8 bytes. -/
  | invalidNonceLength
  /-- The buffer is not a whole number of 32-bit words. -/
  | unalignedInput
  /-- The operand of `OP` is not a digit 0 to 7. -/
  | invalidOpDigit
  /-- The text is no line of the notation. -/
  | notALine
deriving DecidableEq, Repr

/-- A line of the notation (R66), or a pseudo-command (R67). Keys and nonces are byte strings in host order. -/
inductive ScriptLine where
  | init (key nonce : List Byte)
  | proc (din : Word)
  | rstctr
  | rstcur
  | rst
  | op (d : Nat)
  | hwreset
  | ks (n : Nat)
  | procbuf (ws : List Word)
  | encrypt (ws : List Word)
  | decrypt (ws : List Word)
deriving DecidableEq, Repr

/-- The samples of a host that offers the given commands in order. -/
def offers (is : List Instr) : List PortSample := is.map fun i => PortSample.offer (encodeCommand i)

/-- "`PROC w0`, `PROC w1`, ..., in that order" (R67, R128). -/
def procSamples (ws : List Word) : List PortSample := offers (ws.map Instr.proc)

/-- "Offers the raw opcode `d` with all operand ports zero" (R66). -/
def rawOpcode (d : Nat) : PortSample := PortSample.offer ⟨BitVec.ofNat 3 d, 0, 0, 0⟩

/-- What a line makes the host drive (R66, R67). The length checks of `init` are those R140 leaves to a host-side wrapper. DESIGN
CHOICE (log entry 11), safe but for the error's name: R140 gives them no order; the key's length is checked first, so a line with both lengths wrong is
`invalidKeyLength`. -/
def ScriptLine.samples : ScriptLine → Except ScriptError (List PortSample)
  | .init key nonce =>
    if keyBytesOk key then
      if nonceBytesOk nonce then .ok (offers [.init (keyOfBytes key) (nonceOfBytes nonce)])
      else .error .invalidNonceLength
    else .error .invalidKeyLength
  | .proc din => .ok (procSamples [din])
  | .rstctr => .ok (offers [.rstctr])
  | .rstcur => .ok (offers [.rstcur])
  | .rst => .ok (offers [.rst])
  | .op d => if opDigitOk d then .ok [rawOpcode d] else .error .invalidOpDigit
  | .hwreset => .ok [PortSample.hwreset]
  | .ks n => .ok (procSamples (List.replicate n 0))
  | .procbuf ws => .ok (procSamples ws)
  | .encrypt ws => .ok (procSamples ws)
  | .decrypt ws => .ok (procSamples ws)

/-- What a script makes the host drive: the lines' samples in order, or the first error. DESIGN CHOICE (log entry 12), safe: R140
surfaces an error "at the point of the offending call" and speaks of no script; here the whole script is read before anything is
driven, so a line in error means that no line drives a port. A host that drives line by line is `ScriptLine.samples` of each line. -/
def scriptSamples : List ScriptLine → Except ScriptError (List PortSample)
  | [] => .ok []
  | l :: ls =>
    match l.samples, scriptSamples ls with
    | .ok ps, .ok qs => .ok (ps ++ qs)
    | .error e, _ => .error e
    | _, .error e => .error e

/-- A buffer as data words, four bytes each, the first byte in the least significant lane (R44); anything but a whole number of
words is the source's `UnalignedInput` (R46, R140). -/
def wordsOfBuffer : List Byte → Except ScriptError (List Word)
  | [] => .ok []
  | b0 :: b1 :: b2 :: b3 :: rest =>
    match wordsOfBuffer rest with
    | .ok ws => .ok (wordOfBytes b0 b1 b2 b3 :: ws)
    | .error e => .error e
  | _ => .error .unalignedInput

/-- Data words as a buffer (R44). -/
def bufferOfWords (ws : List Word) : List Byte := ws.flatMap bytesOfWord

/-- The response a line may be followed by (R66). -/
inductive Expected where
  | ok
  | okWith (dout : Word)
  | error (st : Status)
deriving DecidableEq, Repr

/-- Whether a response is the expected one. DESIGN CHOICE (log entry 10), safe: R66 does not say what `OK` without digits expects
of `dout`; it expects nothing of it, and an error name looks at the status alone. -/
def Expected.meets : Expected → Response → Bool
  | .ok, r => r.status == .ok
  | .okWith w, r => r.status == .ok && r.dout == w
  | .error st, r => r.status == st

/-- The value of a hexadecimal digit. DESIGN CHOICE (log entry 10), safe but for the error's name: R66 says `<8 hex digits>` and shows lower case; `0` to `9`
and `a` to `f` are read, and a line with an upper case digit is `notALine`. -/
def hexDigit (c : Char) : Option Nat :=
  if '0' ≤ c ∧ c ≤ '9' then some (c.toNat - '0'.toNat)
  else if 'a' ≤ c ∧ c ≤ 'f' then some (c.toNat - 'a'.toNat + 10)
  else none

/-- A number written most significant digit first in the given base. -/
def numeral (base : Nat) : List Char → Nat → Option Nat
  | [], acc => some acc
  | c :: cs, acc =>
    match hexDigit c with
    | some d => if d < base then numeral base cs (acc * base + d) else none
    | none => none

/-- The operand of `PROC`: 8 hexadecimal digits, "the word `din` written as a number" (R66); a line with any other number of them is
`notALine` (DESIGN CHOICE, log entry 10, safe but for the error's name: R66 gives no other form and names no error). -/
def hexWord (cs : List Char) : Option Word :=
  if cs.length = 8 then (numeral 16 cs 0).map (BitVec.ofNat 32) else none

/-- A byte string in host order, two digits a byte: "the first two hex digits are key byte 0" (R66). DESIGN CHOICE (log entry 10),
safe but for the error's name: R66 and R140 do not say what a wrong number of digits is; an even number is a byte string, whose length R140's checks then
refuse, and an odd number is none, so that line is `notALine`. -/
def hexBytes : List Char → Option (List Byte)
  | [] => some []
  | a :: b :: rest =>
    match hexDigit a, hexDigit b, hexBytes rest with
    | some h, some l, some bs => some (BitVec.ofNat 8 (16 * h + l) :: bs)
    | _, _, _ => none
  | [_] => none

/-- The hexadecimal words of an operand list. -/
def hexWords : List (List Char) → Option (List Word)
  | [] => some []
  | t :: ts =>
    match hexWord t, hexWords ts with
    | some w, some ws => some (w :: ws)
    | _, _ => none

/-- What follows a key such as `key=` in a token. -/
def afterKey : List Char → List Char → Option (List Char)
  | [], rest => some rest
  | _, [] => none
  | k :: ks, c :: cs => if k = c then afterKey ks cs else none

/-- The bytes a token `<name>=<hex digits>` gives. -/
def bytesOperand (name token : List Char) : Option (List Byte) :=
  match afterKey name token with
  | some digits => hexBytes digits
  | none => none

/-- The tokens of a line, split at spaces; `cur` is the token being read, reversed. DESIGN CHOICE (log entry 10), safe: R66 names no
separator and shows spaces; any number of spaces separates, and no other character does. -/
def tokensFrom : List Char → List Char → List (List Char)
  | [], cur => if cur = [] then [] else [cur.reverse]
  | c :: cs, cur =>
    if c = ' ' then (if cur = [] then tokensFrom cs [] else cur.reverse :: tokensFrom cs [])
    else tokensFrom cs (c :: cur)

/-- A line of the notation read from its tokens (R66, R67). -/
def lineOfTokens : List (List Char) → Option ScriptLine
  | [['I', 'N', 'I', 'T'], k, n] =>
    match bytesOperand ['k', 'e', 'y', '='] k, bytesOperand ['n', 'o', 'n', 'c', 'e', '='] n with
    | some key, some nonce => some (.init key nonce)
    | _, _ => none
  | [['P', 'R', 'O', 'C'], w] => (hexWord w).map .proc
  | [['R', 'S', 'T', 'C', 'T', 'R']] => some .rstctr
  | [['R', 'S', 'T', 'C', 'U', 'R']] => some .rstcur
  | [['R', 'S', 'T']] => some .rst
  | [['O', 'P'], [d]] => (numeral 10 [d] 0).map .op
  | [['H', 'W', 'R', 'E', 'S', 'E', 'T']] => some .hwreset
  | [['K', 'S']] => some (.ks 1)
  | [['K', 'S'], n] => (numeral 10 n 0).map .ks
  | ['P', 'R', 'O', 'C', 'B', 'U', 'F'] :: ws => (hexWords ws).map .procbuf
  | ['E', 'N', 'C', 'R', 'Y', 'P', 'T'] :: ws => (hexWords ws).map .encrypt
  | ['D', 'E', 'C', 'R', 'Y', 'P', 'T'] :: ws => (hexWords ws).map .decrypt
  | _ => none

/-- The expected response read from the tokens after `->` (R66). -/
def expectedOfTokens : List (List Char) → Option Expected
  | [['O', 'K']] => some .ok
  | [['O', 'K'], w] => (hexWord w).map .okWith
  | [t] =>
    if t = "ERR_NOT_KEYED".toList then some (.error .errNotKeyed)
    else if t = "ERR_NO_BLOCK".toList then some (.error .errNoBlock)
    else if t = "ERR_ILLEGAL_OP".toList then some (.error .errIllegalOp)
    else none
  | _ => none

/-- The tokens before and after `->`. -/
def splitArrow : List (List Char) → List (List Char) × Option (List (List Char))
  | [] => ([], none)
  | t :: ts => if t = ['-', '>'] then ([], some ts) else (t :: (splitArrow ts).1, (splitArrow ts).2)

/-- A line of text: the command and the response expected of it, if one is written (R66). -/
def parseLine (text : String) : Except ScriptError (ScriptLine × Option Expected) :=
  match splitArrow (tokensFrom text.toList []) with
  | (cmd, none) =>
    match lineOfTokens cmd with
    | some l => .ok (l, none)
    | none => .error .notALine
  | (cmd, some ex) =>
    match lineOfTokens cmd, expectedOfTokens ex with
    | some l, some e => .ok (l, some e)
    | _, _ => .error .notALine

end Sys2Proof.Machine
end

