-- ==== Sys2Proof/Safety.lean ====
section
/-!
DEFINITION. The terms claims are stated in: the invariants of 10_state.md R37, a run over port samples, and what two states that
differ only in unspecified words have in common.
-/

namespace Sys2Proof.Machine

/-- The invariants of the engine that R37 lists, (a) to (f); of (d) the part about the constants. -/
structure Engine.Inv (e : Engine) : Prop where
  /-- (a) -/
  cursor_le : e.cursor ≤ 16#5
  /-- (b) -/
  bvalid_keyed : e.bvalid = true → e.keyed = true
  /-- (c) -/
  fresh : e.keyed = true → e.bvalid = false → e.cursor = 16#5 ∧ ctrOf e.S = 0#64
  /-- (d), the constants -/
  constants : e.keyed = true →
    e.S[0] = 0x61707865#32 ∧ e.S[5] = 0x3320646e#32 ∧ e.S[10] = 0x79622d32#32 ∧ e.S[15] = 0x6b206574#32
  /-- (e) -/
  block : e.bvalid = true → e.B = salsa20Block (withCtr e.S (ctrOf e.S - 1))
  /-- (f) -/
  unkeyed : e.keyed = false → e.bvalid = false ∧ e.cursor = 16#5

/-- (d), the key and the nonce: `S` is R22's array of this key and nonce at the current counter value. -/
def Engine.HoldsKey (e : Engine) (key : BitVec 256) (nonce : BitVec 64) : Prop :=
  e.keyed = true ∧ e.S = stateArray key nonce (ctrOf e.S)

/-- The responses recorded are of R64's form, and the response ports show the last of them or none (R53). -/
structure State.ResponsesInv (s : State) : Prop where
  /-- `dout` is 0 in every response that is not OK (R64). -/
  refused_dout : ∀ r ∈ s.history, r.status ≠ Status.ok → r.dout = 0#32
  /-- A response on the ports is the last one recorded. -/
  shown_last : ∀ r, s.rsp = some r → s.history.getLast? = some r

/-- A state that runs from hardware reset stay in (R37). -/
structure State.Inv (s : State) : Prop where
  eng : s.eng.Inv
  responses : s.ResponsesInv

/-- What two states have in common when they differ only in words the spec leaves unspecified: `S` while not keyed, `B` while there
is no valid block (R27, R36), and the model's draw count. -/
structure SameSpecified (s t : State) : Prop where
  cursor : s.eng.cursor = t.eng.cursor
  keyed : s.eng.keyed = t.eng.keyed
  bvalid : s.eng.bvalid = t.eng.bvalid
  words : s.eng.keyed = true → s.eng.S = t.eng.S
  block : s.eng.bvalid = true → s.eng.B = t.eng.B
  inputs : s.inputs = t.inputs
  rsp : s.rsp = t.rsp
  history : s.history = t.history

/-- The engine acting on a list of port samples, one after the other, stopping where it stops (70_reset_and_hazards.md R169). -/
def runSamples : List PortSample → State → Host.Outcome State Fault Refusal
  | [], s => .next s
  | p :: ps, s =>
    match onSample p s with
    | .next t => runSamples ps t
    | .fault r => .fault r
    | .refused r => .refused r

/-- The source's `process` on a buffer of words: one PROC a word, in buffer order (42_commands.md R128). -/
def process (ws : List Word) (s : State) : Host.Outcome State Fault Refusal :=
  runSamples (procSamples ws) s

/-- The responses of PROC commands that were executed and gave these words. -/
def okWords (ws : List Word) : List Response := ws.map fun w => ⟨Status.ok, w⟩

end Sys2Proof.Machine
end

