-- ==== Sys2Proof/Certificates/Slice0/Obligations.lean ====
section
/-!
DEFINITION. The statements about the machine, from the numbered rules of spec/. Each docstring names the rule or section it comes
from. The words that the spec leaves unspecified (log entries 1 and 3) appear in no conclusion.
-/

open Sys2Proof Sys2Proof.Machine

/-! ## The permutation (40_permutation.md) -/

/-- R81: the low 32 bits of the sum, the carry dropped; its corner cases and its example. -/
def Obligations.Add32IsTheSumModTwoPow32 : Prop :=
  (∀ a b : Word, (add32 a b).toNat = (a.toNat + b.toNat) % 2 ^ 32) ∧
  (∀ a : Word, add32 a 0#32 = a) ∧
  add32 0xffffffff#32 1#32 = 0#32 ∧
  add32 0xffffffff#32 0xffffffff#32 = 0xfffffffe#32 ∧
  add32 0x80000000#32 0x80000000#32 = 0#32 ∧
  add32 0x12345678#32 0x9abcdef0#32 = 0xacf13568#32

/-- 40_permutation.md section 1 (left rotation): for `n` in 1 to 31 the arithmetic form, where each bit goes, and no bit lost (the
spec's "a rotation permutes bit positions"); the corner cases and the examples. -/
def Obligations.Rotl32MovesEveryBit : Prop :=
  (∀ (v : Word) (n : Nat), 1 ≤ n → n ≤ 31 →
    (rotl32 v n).toNat = (v.toNat * 2 ^ n) % 2 ^ 32 + v.toNat / 2 ^ (32 - n) ∧
    (∀ i : Nat, i < 32 → (rotl32 v n).getLsbD ((i + n) % 32) = v.getLsbD i) ∧
    (∀ u : Word, rotl32 u n = rotl32 v n → u = v) ∧
    rotl32 0#32 n = 0#32 ∧ rotl32 0xffffffff#32 n = 0xffffffff#32) ∧
  rotl32 0x00000001#32 7 = 0x00000080#32 ∧
  rotl32 0x80000000#32 7 = 0x00000040#32 ∧
  rotl32 0xc0000001#32 9 = 0x00000380#32 ∧
  rotl32 0x12345678#32 13 = 0x8acf0246#32 ∧
  rotl32 0x12345678#32 18 = 0x59e048d1#32

/-- R83: a bit of the result is 1 exactly when the bits differ; self-inverse; its example. -/
def Obligations.XorIsBitwiseAndSelfInverse : Prop :=
  (∀ (a b : Word) (i : Nat), i < 32 →
    ((xor32 a b).getLsbD i = true ↔ a.getLsbD i ≠ b.getLsbD i)) ∧
  (∀ a : Word, xor32 a 0#32 = a) ∧
  (∀ a : Word, xor32 a a = 0#32) ∧
  (∀ a b : Word, xor32 (xor32 a b) b = a) ∧
  xor32 0xdeadbeef#32 0x8192b629#32 = 0x5f3f08c6#32

/-- 40_permutation.md section 2 (the quarter-round): on four distinct positions the in-place form writes the pure function's four
words, computed from the four words read there, and no other word changes; the four steps; the fixed point; the example. -/
def Obligations.QuarterRoundWritesItsFourPositions : Prop :=
  (∀ (x : Block) (a b c d : Fin 16), a ≠ b → a ≠ c → a ≠ d → b ≠ c → b ≠ d → c ≠ d →
    ((qr x a b c d)[a], (qr x a b c d)[b], (qr x a b c d)[c], (qr x a b c d)[d]) =
      quarterRound x[a] x[b] x[c] x[d] ∧
    ∀ j : Fin 16, j ≠ a → j ≠ b → j ≠ c → j ≠ d → (qr x a b c d)[j] = x[j]) ∧
  (∀ a0 b0 c0 d0 a1 b1 c1 d1 : Word, quarterRound a0 b0 c0 d0 = (a1, b1, c1, d1) →
    b1 = b0 ^^^ (a0 + d0).rotateLeft 7 ∧
    c1 = c0 ^^^ (b1 + a0).rotateLeft 9 ∧
    d1 = d0 ^^^ (c1 + b1).rotateLeft 13 ∧
    a1 = a0 ^^^ (d1 + c1).rotateLeft 18) ∧
  quarterRound 0#32 0#32 0#32 0#32 = (0#32, 0#32, 0#32, 0#32) ∧
  quarterRound 1#32 0#32 0#32 0#32 = (0x08008145#32, 0x00000080#32, 0x00010200#32, 0x20500000#32)

/-- 40_permutation.md section 2 ("the quarter-round is invertible"): no two inputs have one result. -/
def Obligations.QuarterRoundIsInjective : Prop :=
  ∀ a b c d a' b' c' d' : Word, quarterRound a b c d = quarterRound a' b' c' d' →
    a = a' ∧ b = b' ∧ c = c' ∧ d = d'

/-- 40_permutation.md section 3 (the column round): every word is written once, by the quarter-round of its own column, started at
the diagonal and read from the buffer as it was before the round; the example. -/
def Obligations.ColumnRoundIsFourQuarterRoundsAtOnce : Prop :=
  (∀ x y : Block, columnRound x = y →
    (y[0], y[4], y[8], y[12]) = quarterRound x[0] x[4] x[8] x[12] ∧
    (y[5], y[9], y[13], y[1]) = quarterRound x[5] x[9] x[13] x[1] ∧
    (y[10], y[14], y[2], y[6]) = quarterRound x[10] x[14] x[2] x[6] ∧
    (y[15], y[3], y[7], y[11]) = quarterRound x[15] x[3] x[7] x[11]) ∧
  columnRound #v[1, 0, 0, 0, 0, 0, 0, 0, 0, 0, 0, 0, 0, 0, 0, 0] =
    #v[0x08008145, 0, 0, 0, 0x00000080, 0, 0, 0, 0x00010200, 0, 0, 0, 0x20500000, 0, 0, 0]

/-- 40_permutation.md section 3 (the row round): every word is written once, by the quarter-round of its own row; the example. -/
def Obligations.RowRoundIsFourQuarterRoundsAtOnce : Prop :=
  (∀ x y : Block, rowRound x = y →
    (y[0], y[1], y[2], y[3]) = quarterRound x[0] x[1] x[2] x[3] ∧
    (y[5], y[6], y[7], y[4]) = quarterRound x[5] x[6] x[7] x[4] ∧
    (y[10], y[11], y[8], y[9]) = quarterRound x[10] x[11] x[8] x[9] ∧
    (y[15], y[12], y[13], y[14]) = quarterRound x[15] x[12] x[13] x[14]) ∧
  rowRound #v[1, 0, 0, 0, 0, 0, 0, 0, 0, 0, 0, 0, 0, 0, 0, 0] =
    #v[0x08008145, 0x00000080, 0x00010200, 0x20500000, 0, 0, 0, 0, 0, 0, 0, 0, 0, 0, 0, 0]

/-- 40_permutation.md section 3 (independence inside a round, the spec's inference): quarter-rounds on disjoint positions may be
evaluated in either order. -/
def Obligations.DisjointQuarterRoundsCommute : Prop :=
  ∀ (x : Block) (a b c d a' b' c' d' : Fin 16),
    [a, b, c, d].Disjoint [a', b', c', d'] →
    [a, b, c, d].Nodup → [a', b', c', d'].Nodup →
    qr (qr x a b c d) a' b' c' d' = qr (qr x a' b' c' d') a b c d

/-- 40_permutation.md section 3 (the spec's inference): "Perm20 is a bijection on 16-word buffers", 10 double-rounds, a column
round first in each. -/
def Obligations.Perm20IsABijection : Prop :=
  Function.Bijective perm20 ∧
  (∀ x : Block, perm20 x = (fun y => rowRound (columnRound y))^[10] x)

/-- R90: the fixed point of the wiring: every step of the quarter-round of four zero words, and so its four results, is 0. The
rotation is taken by the amounts 40_permutation.md section 1 gives it, 1 to 31, the block's 7, 9, 13 and 18 among them. -/
def Obligations.QuarterRoundZeroCheck : Prop :=
  add32 0#32 0#32 = 0#32 ∧ (∀ n : Nat, 1 ≤ n → n ≤ 31 → rotl32 0#32 n = 0#32) ∧ xor32 0#32 0#32 = 0#32 ∧
  quarterRound 0#32 0#32 0#32 0#32 = (0#32, 0#32, 0#32, 0#32)

/-- 40_permutation.md section 3 and 41_block_generator.md (the spec's inferences): the all-zero buffer is a fixed point of the
rounds, of `Perm20` and of the block function, which is why the constants of the State matter. -/
def Obligations.AllZeroBufferIsFixed : Prop :=
  ∀ z : Block, (∀ j : Fin 16, z[j] = 0#32) →
    columnRound z = z ∧ rowRound z = z ∧ doubleRound z = z ∧ perm20 z = z ∧ salsa20Block z = z

/-! ## Block generation (41_block_generator.md) -/

/-- 41_block_generator.md (the block function): word `i` of the block is word `i` of the permuted copy plus word `i` of the array
as it was before the permutation. -/
def Obligations.BlockIsPermutationPlusFeedForward : Prop :=
  ∀ (t : Block) (i : Fin 16),
    ((salsa20Block t)[i]).toNat = (((perm20 t)[i]).toNat + (t[i]).toNat) % 2 ^ 32

/-- R102: the 64-bit counter plus 1; the two words with the carry; no other word of the array changes; the corner cases. -/
def Obligations.CtrIncAddsOneModTwoPow64 : Prop :=
  (∀ s : Block, (ctrOf (ctrInc s)).toNat = ((ctrOf s).toNat + 1) % 2 ^ 64) ∧
  (∀ s : Block, (ctrInc s)[8] = s[8] + 1#32 ∧
    (ctrInc s)[9] = if s[8] + 1#32 = 0#32 then s[9] + 1#32 else s[9]) ∧
  (∀ (s : Block) (j : Fin 16), j ≠ 8 → j ≠ 9 → (ctrInc s)[j] = s[j]) ∧
  (∀ s : Block, s[8] = 0xffffffff#32 → s[9] = 0#32 → (ctrInc s)[8] = 0#32 ∧ (ctrInc s)[9] = 1#32) ∧
  (∀ s : Block, s[8] = 0xfffffffe#32 → (ctrInc s)[8] = 0xffffffff#32 ∧ (ctrInc s)[9] = s[9]) ∧
  (∀ s : Block, s[8] = 0#32 → s[9] = 0#32 → (ctrInc s)[8] = 1#32 ∧ (ctrInc s)[9] = 0#32)

/-- R103: from 2^64 - 1 the counter becomes 0, unmarked by any status; the next block is again block 0, and the keystream repeats
with period 2^64 blocks. -/
def Obligations.CounterWrapsSilently : Prop :=
  (∀ s : Block, s[8] = 0xffffffff#32 → s[9] = 0xffffffff#32 →
    (ctrInc s)[8] = 0#32 ∧ (ctrInc s)[9] = 0#32) ∧
  (∀ (s : State) (din : Word), s.eng.keyed = true → s.eng.cursor = 16#5 →
    s.eng.S[8] = 0xffffffff#32 → s.eng.S[9] = 0xffffffff#32 →
    ∃ t, exec (.proc din) s = .next t ∧ t.rsp.map Response.status = some Status.ok ∧
      ctrOf t.eng.S = 0#64 ∧ t.eng.keyed = true ∧ t.eng.bvalid = true ∧
      (generateBlock t.eng).B = salsa20Block (withCtr s.eng.S 0#64)) ∧
  (∀ (key : BitVec 256) (nonce : BitVec 64) (c d : Nat), c % 2 ^ 64 = d % 2 ^ 64 →
    keystreamBlock key nonce (BitVec.ofNat 64 c) = keystreamBlock key nonce (BitVec.ofNat 64 d))

/-- R104: the block of the counter value on entry, then the increment; cursor 0, `bvalid` 1, and nothing else written; the
example. -/
def Obligations.GenerateBlockMakesBlockOfOldCounter : Prop :=
  (∀ e : Engine,
    (generateBlock e).B = salsa20Block e.S ∧
    ctrOf (generateBlock e).S = ctrOf e.S + 1#64 ∧
    (∀ j : Fin 16, j ≠ 8 → j ≠ 9 → (generateBlock e).S[j] = e.S[j]) ∧
    (generateBlock e).cursor = 0#5 ∧ (generateBlock e).bvalid = true ∧
    (generateBlock e).keyed = e.keyed) ∧
  (∀ b : Block,
    (generateBlock (freshEngine 0#256 0#64 b)).B =
      #v[0x5bf6979a, 0x1b724c9b, 0x21670a96, 0xd4a8fc45, 0xf9672ee3, 0x79a91e11, 0x26489cce, 0xe6ee6a80,
         0xdac0e93d, 0x1ef9d72b, 0x9b63b2bc, 0x25c689f9, 0x38bf291b, 0xdc9b9ad3, 0x4b5fc5e7, 0x392ac12a] ∧
    ctrOf (generateBlock (freshEngine 0#256 0#64 b)).S = 1#64)

/-- 41_block_generator.md (the known answer, as rules R101 and R108 give its value): from any state, INIT with the all-zero key and
nonce and one `PROC 0` leave the known block in `B` and answer its word 0. -/
def Obligations.KnownAnswerForZeroKeyAndNonce : Prop :=
  ∀ s : State, ∃ t u, exec (.init 0#256 0#64) s = .next t ∧ exec (.proc 0#32) t = .next u ∧
    u.rsp = some ⟨Status.ok, 0x5bf6979a#32⟩ ∧
    u.eng.B =
      #v[0x5bf6979a, 0x1b724c9b, 0x21670a96, 0xd4a8fc45, 0xf9672ee3, 0x79a91e11, 0x26489cce, 0xe6ee6a80,
         0xdac0e93d, 0x1ef9d72b, 0x9b63b2bc, 0x25c689f9, 0x38bf291b, 0xdc9b9ad3, 0x4b5fc5e7, 0x392ac12a]

/-! ## Operands and byte order (20_memory.md, 10_state.md) -/

/-- R43: the lanes of the wide ports, of words and of bytes, and of the counter. -/
def Obligations.PortLanesAreLittleEndian : Prop :=
  (∀ (key : BitVec 256) (i j : Nat), i < 8 → j < 32 → (keyWord key i).getLsbD j = key.getLsbD (32 * i + j)) ∧
  (∀ (nonce : BitVec 64) (i j : Nat), i < 2 → j < 32 → (nonceWord nonce i).getLsbD j = nonce.getLsbD (32 * i + j)) ∧
  (∀ s : Block, (ctrOf s).extractLsb' 0 32 = s[8] ∧ (ctrOf s).extractLsb' 32 32 = s[9]) ∧
  (∀ (bytes : List Byte), bytes.length = 32 → ∀ (j : Nat) (h : j < bytes.length),
    (keyOfBytes bytes).extractLsb' (8 * j) 8 = bytes[j]) ∧
  (∀ (bytes : List Byte), bytes.length = 8 → ∀ (j : Nat) (h : j < bytes.length),
    (nonceOfBytes bytes).extractLsb' (8 * j) 8 = bytes[j])

/-- 20_memory.md section 2 (data words and the keystream as bytes): a word is its four bytes, least significant first; XOR acts
byte by byte; keystream byte `4i + j` is byte `j` of word `i`; a buffer read as words and written back is itself. -/
def Obligations.BuffersAreLittleEndianWords : Prop :=
  (∀ b0 b1 b2 b3 : Byte, bytesOfWord (wordOfBytes b0 b1 b2 b3) = [b0, b1, b2, b3] ∧
    (wordOfBytes b0 b1 b2 b3).toNat = b0.toNat + b1.toNat * 2 ^ 8 + b2.toNat * 2 ^ 16 + b3.toNat * 2 ^ 24) ∧
  (∀ (x y : Word) (j : Nat), byteOfWord (x ^^^ y) j = byteOfWord x j ^^^ byteOfWord y j) ∧
  (∀ (b : Block) (i : Fin 16) (j : Fin 4), keystreamByte b ⟨4 * i.val + j.val, by omega⟩ = byteOfWord b[i] j.val) ∧
  (∀ ws : List Word, wordsOfBuffer (bufferOfWords ws) = .ok ws)

/-- 20_memory.md section 3 and 60_exceptions.md section 1 (the source's errors, left to the host-side wrapper): a buffer is turned
into words exactly when it is a whole number of them, and an INIT line drives INIT exactly when both lengths are right; one wrong
length gives its own error. MODEL'S CHOICE (log entry 11), the clause marked so: with both lengths wrong the error is that of the
key, an order the spec does not give. -/
def Obligations.WrapperRefusesWrongLengths : Prop :=
  (∀ bytes : List Byte, (wordsOfBuffer bytes = .error .unalignedInput ↔ bufferOk bytes = false) ∧
    (bufferOk bytes = true → ∃ ws, wordsOfBuffer bytes = .ok ws ∧ bufferOfWords ws = bytes)) ∧
  (∀ key nonce : List Byte, key.length ≠ 32 → nonce.length = 8 →
    (ScriptLine.init key nonce).samples = .error .invalidKeyLength) ∧
  -- model's choice, log entry 11: both lengths wrong
  (∀ key nonce : List Byte, key.length ≠ 32 → nonce.length ≠ 8 →
    (ScriptLine.init key nonce).samples = .error .invalidKeyLength) ∧
  (∀ key nonce : List Byte, key.length = 32 → nonce.length ≠ 8 →
    (ScriptLine.init key nonce).samples = .error .invalidNonceLength) ∧
  (∀ key nonce : List Byte, key.length = 32 → nonce.length = 8 →
    (ScriptLine.init key nonce).samples = .ok (offers [.init (keyOfBytes key) (nonceOfBytes nonce)]))

/-- 10_state.md section 2 (the constants, the spec's derivation from "expand 32-byte k"): the four words are the string's ASCII
bytes, packed little-endian, in string order. -/
def Obligations.ConstantsSpellExpand32ByteK : Prop :=
  sigma0 = wordOfBytes 0x65 0x78 0x70 0x61 ∧ sigma1 = wordOfBytes 0x6e 0x64 0x20 0x33 ∧
  sigma2 = wordOfBytes 0x32 0x2d 0x62 0x79 ∧ sigma3 = wordOfBytes 0x74 0x65 0x20 0x6b ∧
  sigma0 = 0x61707865#32 ∧ sigma1 = 0x3320646e#32 ∧ sigma2 = 0x79622d32#32 ∧ sigma3 = 0x6b206574#32

/-- R67: each pseudo-command drives exactly the samples of its expansion into PROC lines, for every operand list. -/
def Obligations.PseudoCommandsExpandToProc : Prop :=
  (ScriptLine.ks 1).samples = (ScriptLine.proc 0#32).samples ∧
  (∀ n : Nat, (ScriptLine.ks n).samples = scriptSamples (List.replicate n (.proc 0#32))) ∧
  (∀ ws : List Word, (ScriptLine.procbuf ws).samples = scriptSamples (ws.map .proc)) ∧
  (∀ ws : List Word, (ScriptLine.encrypt ws).samples = (ScriptLine.procbuf ws).samples ∧
    (ScriptLine.decrypt ws).samples = (ScriptLine.procbuf ws).samples)

/-! ## Encoding (30_encoding.md) -/

/-- 30_encoding.md section 1: decoding the encoding of any command gives it back, with every operand at every value. -/
def Obligations.DecodeInvertsEncode : Prop :=
  ∀ i : Instr, i.wellFormed = true → decode (encode i) = i

/-- 30_encoding.md section 1 ("a field a command does not use is ignored"; decode reads the three bits of `op`): two flat vectors
decode alike exactly when their `op` agrees and the operands that this `op` uses agree. -/
def Obligations.DecodeReadsExactlyTheUsedFields : Prop :=
  ∀ v w : BitVec 355, decode v = decode w ↔
    v.extractLsb' 352 3 = w.extractLsb' 352 3 ∧
    (v.extractLsb' 352 3 = 1#3 → v.extractLsb' 96 256 = w.extractLsb' 96 256 ∧ v.extractLsb' 32 64 = w.extractLsb' 32 64) ∧
    (v.extractLsb' 352 3 = 2#3 → v.extractLsb' 0 32 = w.extractLsb' 0 32)

/-- 30_encoding.md section 2 and spec/opcode_table.json ("the table is a total decoder"): every vector is exactly one row, where "a
command `c` is that row when `c and mask = match`"; and that row is the one whose mnemonic its decoding has. -/
def Obligations.OpcodeTableIsATotalDecoder : Prop :=
  (∀ w : BitVec 355, ∃! r : OpcodeRow, r ∈ opcodeTable ∧ w &&& r.mask = r.pattern) ∧
  (∀ (w : BitVec 355) (r : OpcodeRow), r ∈ opcodeTable →
    (w &&& r.mask = r.pattern ↔ (decode w).mnemonic = r.mnemonic))

/-- 95_test_vectors.md section 3: the flat encodings written out there decode to what they stand for. -/
def Obligations.PublishedFlatWordsDecode : Prop :=
  decodeTableWord 355 0x1201f1e1d1c1b1a191817161514131211100f0e0d0c0b0a0908070605040302016c6b6a696867666500000000 =
    some (.init 0x201f1e1d1c1b1a191817161514131211100f0e0d0c0b0a090807060504030201#256 0x6c6b6a6968676665#64) ∧
  decodeTableWord 355 0x200000000000000000000000000000000000000000000000000000000000000000000000000000000deadbeef =
    some (.proc 0xdeadbeef#32) ∧
  decodeTableWord 355 0x30000000000000000000000000000000000000000000000000000000000000000000000000000000000000000 = some .rstctr ∧
  decodeTableWord 355 0x40000000000000000000000000000000000000000000000000000000000000000000000000000000000000000 = some .rstcur ∧
  decodeTableWord 355 0x50000000000000000000000000000000000000000000000000000000000000000000000000000000000000000 = some .rst ∧
  decodeTableWord 355 0x70000000000000000000000000000000000000000000000000000000000000000000000000000000000000000 = some .reserved7

/-! ## One step (20_memory.md section 5, 70_reset_and_hazards.md section 1) -/

/-- 20_memory.md section 5: when the next port sample offers a command and no reset, the step is `exec` of the command its flat
vector decodes to, with that sample taken; every decoded command is well formed. -/
def Obligations.StepRunsTheDecodedCommand : Prop :=
  ∀ (s : State) (p : PortSample) (rest : List PortSample) (i : Instr),
    s.inputs = p :: rest → p.rst = false → p.cmdValid = true → decode p.cmd.flat = i →
    i.wellFormed = true ∧ step s = exec i { s with inputs := rest }

/-- 20_memory.md section 5: with no command offered (a sample without one, or nothing left to drive) the engine does nothing. -/
def Obligations.IdleStepChangesNoEngineState : Prop :=
  ∀ s : State,
    (s.inputs = [] ∨ ∃ p rest, s.inputs = p :: rest ∧ p.rst = false ∧ p.cmdValid = false) →
    ∃ t, step s = .next t ∧ t.eng = s.eng ∧ t.history = s.history ∧ t.draws = s.draws ∧ t.rsp = none ∧
      t.inputs = s.inputs.tail

/-- 10_state.md section 6 and 70_reset_and_hazards.md section 1: hardware reset, from every state, with priority over a command
offered in the same sample: flags and cursor at their reset values, no response, the numbering of responses restarted. -/
def Obligations.HardwareResetBeatsAnyCommand : Prop :=
  ∀ (s : State) (p : PortSample) (rest : List PortSample), s.inputs = p :: rest → p.rst = true →
    ∃ t, step s = .next t ∧ t.eng.keyed = false ∧ t.eng.bvalid = false ∧ t.eng.cursor = 16#5 ∧
      t.rsp = none ∧ t.history = [] ∧ t.inputs = rest ∧ ctrPort t = none ∧ cmdReady t = true

/-- 10_state.md section 6: what the spec says of the machine right after hardware reset. -/
def Obligations.ResetLeavesUnkeyedEngine : Prop :=
  State.reset.eng.keyed = false ∧ State.reset.eng.bvalid = false ∧ State.reset.eng.cursor = 16#5 ∧
  State.reset.rsp = none ∧ ctrPort State.reset = none

/-- 20_memory.md sections 4 and 5: every accepted command gets exactly one response, presented on the ports and appended to the
record, after all earlier ones; no other step presents one. -/
def Obligations.OneResponsePerAcceptedCommand : Prop :=
  ∀ (s t : State) (p : PortSample) (rest : List PortSample), s.inputs = p :: rest → step s = .next t →
    (p.rst = false → p.cmdValid = true → ∃ r, t.rsp = some r ∧ t.history = s.history ++ [r]) ∧
    (p.rst = false → p.cmdValid = false → t.rsp = none ∧ t.history = s.history) ∧
    (p.rst = true → t.rsp = none ∧ t.history = [])

/-- 20_memory.md section 4 and 70_reset_and_hazards.md section 4: commands take effect in the order they are offered: stepping
through a list of samples is `runSamples` of it, whatever the host drives afterwards. -/
def Obligations.StepsFollowTheOfferedOrder : Prop :=
  ∀ (ps rest : List PortSample) (s t : State), s.inputs = ps ++ rest →
    runSamples ps { s with inputs := rest } = .next t →
    Host.Core.run Sys2Proof.core ps.length s = .next t ∧ t.inputs = rest

/-- 20_memory.md section 5 (the counter port): it shows `S[9] ∥ S[8]` exactly while the engine is keyed. -/
def Obligations.CounterPortShowsWordsNineAndEight : Prop :=
  ∀ s : State,
    (s.eng.keyed = true → ctrPort s = some (s.eng.S[9] ++ s.eng.S[8])) ∧ (s.eng.keyed = false → ctrPort s = none)

/-! ## The commands (42_commands.md, 60_exceptions.md) -/

/-- R120: the checks in their order, for every command record; a refused command writes nothing; no command has another
precondition (the cursor being in the range it always has). -/
def Obligations.CommandChecksInOrder : Prop :=
  ∀ (c : Command) (s : State),
    (c.op ∉ [1#3, 2#3, 3#3, 4#3, 5#3] → exec (decodeCommand c) s = .next (refuse .errIllegalOp s)) ∧
    (c.op ∈ [2#3, 3#3, 4#3, 5#3] → s.eng.keyed = false → exec (decodeCommand c) s = .next (refuse .errNotKeyed s)) ∧
    (c.op = 4#3 → s.eng.keyed = true → s.eng.bvalid = false → exec (decodeCommand c) s = .next (refuse .errNoBlock s)) ∧
    (c.op ∈ [1#3, 2#3, 3#3, 4#3, 5#3] → (c.op ≠ 1#3 → s.eng.keyed = true) → (c.op = 4#3 → s.eng.bvalid = true) →
      s.eng.cursor ≤ 16#5 → ∃ t, exec (decodeCommand c) s = .next t ∧ t.rsp.map Response.status = some Status.ok) ∧
    (∀ st : Status, (refuse st s).eng = s.eng)

/-- R141: each refusal is raised exactly by the commands and under the condition of its row, with its code; INIT never refuses;
nothing is recorded of a refused command but its status: `dout` is 0 and the state after it is the state before it with that
response given, whatever its operands were. -/
def Obligations.RefusalsAreExactlyThese : Prop :=
  (Status.ok.code = 0#2 ∧ Status.errNotKeyed.code = 1#2 ∧ Status.errNoBlock.code = 2#2 ∧ Status.errIllegalOp.code = 3#2) ∧
  (∀ (i : Instr) (s t : State) (r : Response), exec i s = .next t → t.rsp = some r →
    (r.status = .errNotKeyed ↔
      s.eng.keyed = false ∧ ((∃ din, i = .proc din) ∨ i = .rstctr ∨ i = .rstcur ∨ i = .rst)) ∧
    (r.status = .errNoBlock ↔ s.eng.keyed = true ∧ s.eng.bvalid = false ∧ i = .rstcur) ∧
    (r.status = .errIllegalOp ↔ i = .reserved0 ∨ i = .reserved6 ∨ i = .reserved7) ∧
    (r.status ≠ .ok → r.dout = 0#32 ∧ t.eng = s.eng ∧ t = refuse r.status s)) ∧
  (∀ (key : BitVec 256) (nonce : BitVec 64) (s : State), ∃ t, exec (.init key nonce) s = .next t ∧
    t.rsp.map Response.status = some Status.ok)

/-- R144: a refusal writes no architectural state, answers its status and `dout` 0, and is not latched: the next command does to
the engine, and answers, what it would have done and answered without it. -/
def Obligations.RefusalLeavesNoTrace : Prop :=
  ∀ (st : Status) (s : State),
    (refuse st s).eng = s.eng ∧ (refuse st s).rsp = some ⟨st, 0#32⟩ ∧ (refuse st s).history = s.history ++ [⟨st, 0#32⟩] ∧
    (∀ (i : Instr) (t : State), exec i s = .next t →
      ∃ u, exec i (refuse st s) = .next u ∧ u.eng = t.eng ∧ u.rsp = t.rsp)

/-- R121: INIT completes in every state, with the State array of its key and nonce and counter 0, cursor 16, keyed, no block,
response OK and 0; a second INIT with the same operands leaves all that as it is; the example. -/
def Obligations.InitConstructsAFreshEngine : Prop :=
  (∀ (key : BitVec 256) (nonce : BitVec 64) (s : State), ∃ t, exec (.init key nonce) s = .next t ∧
    t.eng.S[0] = 0x61707865#32 ∧ t.eng.S[5] = 0x3320646e#32 ∧ t.eng.S[10] = 0x79622d32#32 ∧ t.eng.S[15] = 0x6b206574#32 ∧
    t.eng.S[1] = key.extractLsb' 0 32 ∧ t.eng.S[2] = key.extractLsb' 32 32 ∧
    t.eng.S[3] = key.extractLsb' 64 32 ∧ t.eng.S[4] = key.extractLsb' 96 32 ∧
    t.eng.S[11] = key.extractLsb' 128 32 ∧ t.eng.S[12] = key.extractLsb' 160 32 ∧
    t.eng.S[13] = key.extractLsb' 192 32 ∧ t.eng.S[14] = key.extractLsb' 224 32 ∧
    t.eng.S[6] = nonce.extractLsb' 0 32 ∧ t.eng.S[7] = nonce.extractLsb' 32 32 ∧
    t.eng.S[8] = 0#32 ∧ t.eng.S[9] = 0#32 ∧
    t.eng.cursor = 16#5 ∧ t.eng.keyed = true ∧ t.eng.bvalid = false ∧
    t.rsp = some ⟨.ok, 0#32⟩ ∧ t.history = s.history ++ [⟨.ok, 0#32⟩] ∧ t.inputs = s.inputs ∧
    ∃ u, exec (.init key nonce) t = .next u ∧ u.eng.S = t.eng.S ∧ u.eng.cursor = t.eng.cursor ∧
      u.eng.keyed = t.eng.keyed ∧ u.eng.bvalid = t.eng.bvalid ∧ u.rsp = t.rsp) ∧
  (∀ s : State, ∃ t,
    exec (.init 0x201f1e1d1c1b1a191817161514131211100f0e0d0c0b0a090807060504030201#256 0x6c6b6a6968676665#64) s = .next t ∧
    t.eng.S =
      #v[0x61707865, 0x04030201, 0x08070605, 0x0c0b0a09, 0x100f0e0d, 0x3320646e, 0x68676665, 0x6c6b6a69,
         0x00000000, 0x00000000, 0x79622d32, 0x14131211, 0x18171615, 0x1c1b1a19, 0x201f1e1d, 0x6b206574])

/-- R122: PROC on a keyed engine, whose cursor is in its range: below 16 the word at the cursor and one step on, everything else
kept; at 16 a new block first, and its word 0; unkeyed, the refusal; the example. -/
def Obligations.ProcXorsTheNextKeystreamWord : Prop :=
  ∀ (din : Word) (s : State),
    (s.eng.keyed = false → exec (.proc din) s = .next (refuse .errNotKeyed s)) ∧
    (∀ h : s.eng.cursor.toNat < 16, s.eng.keyed = true → ∃ t, exec (.proc din) s = .next t ∧
      t.rsp = some ⟨.ok, din ^^^ s.eng.B[s.eng.cursor.toNat]⟩ ∧
      t.history = s.history ++ [⟨.ok, din ^^^ s.eng.B[s.eng.cursor.toNat]⟩] ∧
      t.eng.cursor.toNat = s.eng.cursor.toNat + 1 ∧
      t.eng.S = s.eng.S ∧ t.eng.B = s.eng.B ∧ t.eng.keyed = true ∧ t.eng.bvalid = s.eng.bvalid ∧
      t.inputs = s.inputs ∧ t.draws = s.draws) ∧
    (s.eng.cursor = 16#5 → s.eng.keyed = true → ∃ t, exec (.proc din) s = .next t ∧
      t.rsp = some ⟨.ok, din ^^^ (salsa20Block s.eng.S)[0]⟩ ∧
      t.history = s.history ++ [⟨.ok, din ^^^ (salsa20Block s.eng.S)[0]⟩] ∧
      t.eng.cursor = 1#5 ∧ t.eng.B = salsa20Block s.eng.S ∧ ctrOf t.eng.S = ctrOf s.eng.S + 1#64 ∧
      (∀ j : Fin 16, j ≠ 8 → j ≠ 9 → t.eng.S[j] = s.eng.S[j]) ∧ t.eng.keyed = true ∧ t.eng.bvalid = true ∧
      t.inputs = s.inputs ∧ t.draws = s.draws) ∧
    (∀ t, exec (.init 0#256 0#64) s = .next t → ∃ u, exec (.proc 0#32) t = .next u ∧
      u.rsp = some ⟨.ok, 0x5bf6979a#32⟩ ∧ u.eng.cursor = 1#5 ∧ ctrOf u.eng.S = 1#64)

/-- MODEL'S CHOICE (log entry 5; 10_state.md section 4 says the values 17 to 31 are never reached): on a keyed engine PROC stops
with the named fault exactly when the cursor is out of its range. -/
def Obligations.ProcFaultsOnlyOutsideCursorRange : Prop :=
  ∀ (din : Word) (s : State), s.eng.keyed = true →
    (exec (.proc din) s = .fault .cursorOutOfRange ↔ 16#5 < s.eng.cursor)

/-- 42_commands.md section 2 (RSTCTR): on a keyed engine the counter then reads 1, the block is that of counter 0, cursor 0, a valid
block, whatever counter, block and cursor were; key and nonce words kept; unkeyed, the refusal. -/
def Obligations.RstctrRegeneratesBlockZero : Prop :=
  ∀ s : State,
    (s.eng.keyed = false → exec .rstctr s = .next (refuse .errNotKeyed s)) ∧
    (s.eng.keyed = true → ∃ t, exec .rstctr s = .next t ∧
      t.rsp = some ⟨.ok, 0#32⟩ ∧ t.history = s.history ++ [⟨.ok, 0#32⟩] ∧
      ctrOf t.eng.S = 1#64 ∧ t.eng.B = salsa20Block (withCtr s.eng.S 0#64) ∧ t.eng.cursor = 0#5 ∧ t.eng.bvalid = true ∧
      t.eng.keyed = true ∧ (∀ j : Fin 16, j ≠ 8 → j ≠ 9 → t.eng.S[j] = s.eng.S[j]) ∧
      t.inputs = s.inputs ∧ t.draws = s.draws)

/-- 42_commands.md section 2 (RSTCUR): with a valid block the cursor becomes 0 and nothing else of the engine changes; the two
refusals. -/
def Obligations.RstcurRewindsTheCursorOnly : Prop :=
  ∀ s : State,
    (s.eng.keyed = false → exec .rstcur s = .next (refuse .errNotKeyed s)) ∧
    (s.eng.keyed = true → s.eng.bvalid = false → exec .rstcur s = .next (refuse .errNoBlock s)) ∧
    (s.eng.keyed = true → s.eng.bvalid = true → ∃ t, exec .rstcur s = .next t ∧
      t.rsp = some ⟨.ok, 0#32⟩ ∧ t.history = s.history ++ [⟨.ok, 0#32⟩] ∧
      t.eng.cursor = 0#5 ∧ t.eng.S = s.eng.S ∧ t.eng.B = s.eng.B ∧ t.eng.keyed = true ∧ t.eng.bvalid = true ∧
      t.inputs = s.inputs ∧ t.draws = s.draws)

/-- 42_commands.md section 2 (RST): on a keyed engine it completes with counter 1, block 0, cursor 0 and one response, and in every
state it is RSTCTR. -/
def Obligations.RstEqualsRstctr : Prop :=
  ∀ s : State, exec .rst s = exec .rstctr s ∧
    (s.eng.keyed = true → ∃ t, exec .rst s = .next t ∧
      t.rsp = some ⟨.ok, 0#32⟩ ∧ t.history = s.history ++ [⟨.ok, 0#32⟩] ∧
      ctrOf t.eng.S = 1#64 ∧ t.eng.B = salsa20Block (withCtr s.eng.S 0#64) ∧ t.eng.cursor = 0#5 ∧ t.eng.bvalid = true ∧
      t.eng.keyed = true ∧ (∀ j : Fin 16, j ≠ 8 → j ≠ 9 → t.eng.S[j] = s.eng.S[j]) ∧
      t.inputs = s.inputs ∧ t.draws = s.draws)

/-- R126: each reserved opcode, in every state, keyed or not, completes with `ERR_ILLEGAL_OP` and 0, no state written. -/
def Obligations.ReservedOpcodesAreRefused : Prop :=
  (∀ (c : Command) (s : State), c.op = 0#3 ∨ c.op = 6#3 ∨ c.op = 7#3 → ∃ t, exec (decodeCommand c) s = .next t ∧
    t.eng = s.eng ∧ t.rsp = some ⟨.errIllegalOp, 0#32⟩ ∧ t.history = s.history ++ [⟨.errIllegalOp, 0#32⟩] ∧
    t.inputs = s.inputs ∧ t.draws = s.draws) ∧
  (∀ (i : Instr) (s : State), i = .reserved0 ∨ i = .reserved6 ∨ i = .reserved7 →
    exec i s = .next (refuse .errIllegalOp s))

/-- 10_state.md section 1 and 42_commands.md section 2 (the lists "State written"): the frame of every command. Nothing of the host's
input is touched, the record is only extended; what each command leaves alone of the engine. -/
def Obligations.CommandFrames : Prop :=
  ∀ (i : Instr) (s t : State), exec i s = .next t →
    t.inputs = s.inputs ∧ (∃ r, t.history = s.history ++ [r]) ∧
    ((∀ key nonce, i ≠ .init key nonce) →
      t.eng.keyed = s.eng.keyed ∧ t.draws = s.draws ∧ ∀ j : Fin 16, j ≠ 8 → j ≠ 9 → t.eng.S[j] = s.eng.S[j]) ∧
    (∀ din, i = .proc din → s.eng.cursor ≠ 16#5 →
      t.eng.S = s.eng.S ∧ t.eng.B = s.eng.B ∧ t.eng.bvalid = s.eng.bvalid) ∧
    (i = .rstcur → t.eng.S = s.eng.S ∧ t.eng.B = s.eng.B ∧ t.eng.bvalid = s.eng.bvalid) ∧
    (i = .reserved0 ∨ i = .reserved6 ∨ i = .reserved7 → t.eng = s.eng) ∧
    ((∀ key nonce, i ≠ .init key nonce) → s.eng.keyed = false → t.eng = s.eng)

/-- 10_state.md section 2 and 60_exceptions.md section 3: no command seeks: the counter stays, or advances by 1 in a PROC at cursor
16, or becomes 0 by INIT, or 1 by RSTCTR or RST. -/
def Obligations.NoCommandSeeks : Prop :=
  ∀ (i : Instr) (s t : State), exec i s = .next t →
    ctrOf t.eng.S = ctrOf s.eng.S ∨
    (ctrOf t.eng.S = ctrOf s.eng.S + 1#64 ∧ (∃ din, i = .proc din) ∧ s.eng.cursor = 16#5) ∨
    (ctrOf t.eng.S = 0#64 ∧ ∃ key nonce, i = .init key nonce) ∨
    (ctrOf t.eng.S = 1#64 ∧ (i = .rstctr ∨ i = .rst))

/-- 10_state.md section 4 and 70_reset_and_hazards.md section 1: a keyed engine stays keyed in every step but hardware reset, and an
unkeyed one becomes keyed only by INIT. -/
def Obligations.OnlyHardwareResetForgetsTheKey : Prop :=
  ∀ (s t : State) (p : PortSample) (rest : List PortSample), s.inputs = p :: rest → step s = .next t → p.rst = false →
    (s.eng.keyed = true → t.eng.keyed = true) ∧
    (s.eng.keyed = false → t.eng.keyed = true → p.cmdValid = true ∧ p.cmd.op = 1#3)

/-- 20_memory.md section 5 (idempotency, the spec's inference): RSTCTR, RST and RSTCUR repeated with nothing in between leave the
engine as one of them does; INIT repeated leaves all but the unspecified block. -/
def Obligations.ResetCommandsAreIdempotent : Prop :=
  ∀ (i : Instr) (s t : State), exec i s = .next t →
    (i = .rstctr ∨ i = .rst ∨ i = .rstcur → ∃ u, exec i t = .next u ∧ u.eng = t.eng ∧ u.rsp = t.rsp) ∧
    (∀ key nonce, i = .init key nonce → ∃ u, exec i t = .next u ∧ u.eng.S = t.eng.S ∧ u.eng.cursor = t.eng.cursor ∧
      u.eng.keyed = t.eng.keyed ∧ u.eng.bvalid = t.eng.bvalid ∧ u.rsp = t.rsp)

/-- 70_reset_and_hazards.md section 2 (the three starting points of a keystream, the spec's inference): after INIT; after RSTCTR or
RST; after INIT and one PROC. -/
def Obligations.ThreeStartingPoints : Prop :=
  ∀ (key : BitVec 256) (nonce : BitVec 64) (din : Word) (s : State), ∃ t, exec (.init key nonce) s = .next t ∧
    (ctrOf t.eng.S = 0#64 ∧ t.eng.cursor = 16#5 ∧ t.eng.bvalid = false) ∧
    (∀ i, i = .rstctr ∨ i = .rst → ∃ u, exec i t = .next u ∧
      ctrOf u.eng.S = 1#64 ∧ u.eng.cursor = 0#5 ∧ u.eng.bvalid = true ∧ u.eng.B = keystreamBlock key nonce 0#64) ∧
    (∃ v, exec (.proc din) t = .next v ∧
      ctrOf v.eng.S = 1#64 ∧ v.eng.cursor = 1#5 ∧ v.eng.bvalid = true ∧ v.eng.B = keystreamBlock key nonce 0#64)

/-! ## Invariants and whole runs -/

/-- 10_state.md section 7: the invariants hold right after reset. -/
def Obligations.ResetStateMeetsTheInvariant : Prop := State.reset.Inv

/-- 10_state.md section 7: every step keeps them, from every state that has them. -/
def Obligations.EveryStepKeepsTheInvariant : Prop :=
  ∀ s t : State, s.Inv → step s = .next t → t.Inv

/-- 10_state.md section 7, (d): the key and nonce of the last INIT stay in `S`, at whatever counter value, through every step that is
neither INIT nor hardware reset; INIT puts them there. -/
def Obligations.KeyAndNonceStayUntilNextInit : Prop :=
  (∀ (key : BitVec 256) (nonce : BitVec 64) (s t : State), exec (.init key nonce) s = .next t →
    t.eng.HoldsKey key nonce) ∧
  (∀ (key : BitVec 256) (nonce : BitVec 64) (s t : State), s.eng.HoldsKey key nonce → step s = .next t →
    (∀ p rest, s.inputs = p :: rest → p.rst = false ∧ (p.cmdValid = true → p.cmd.op ≠ 1#3)) →
    t.eng.HoldsKey key nonce)

/-- 70_reset_and_hazards.md section 4 ("it cannot hang or deadlock") and 60_exceptions.md section 1: in a state with the invariants
every step answers a next state: no fault, no refusal of the model. -/
def Obligations.InvariantStatesNeverStop : Prop :=
  ∀ s : State, s.Inv → ∃ t, step s = .next t

/-- 10_state.md section 7 ("in every state reachable from hardware reset by any sequence of commands"): any samples whatever can be
run from reset, and they end in a state with the invariants. -/
def Obligations.EverySampleSequenceRunsFromReset : Prop :=
  ∀ ps : List PortSample, ∃ t, runSamples ps State.reset = .next t ∧ t.Inv

/-- 10_state.md section 6 ("the unspecified words are never read by any rule"): two states with the invariants that differ only in
unspecified words answer the same, and go on to differ only there, in every step. -/
def Obligations.UnspecifiedWordsAreNeverObserved : Prop :=
  ∀ s t s' : State, s.Inv → t.Inv → SameSpecified s t → step s = .next s' →
    ∃ t', step t = .next t' ∧ SameSpecified s' t' ∧ ctrPort s' = ctrPort t'

/-- 42_commands.md section 3 (count of generations, the spec's inference): a run of `w ≥ 1` PROC commands from cursor `c` raises the
counter by `(c + w - 1) / 16` and ends at cursor `(c + w - 1) mod 16 + 1`. -/
def Obligations.GenerationCountOfAProcRun : Prop :=
  ∀ (ws : List Word) (s : State), ws ≠ [] → s.eng.keyed = true → s.eng.cursor ≤ 16#5 →
    ∃ t, process ws s = .next t ∧
      ctrOf t.eng.S = ctrOf s.eng.S + BitVec.ofNat 64 ((s.eng.cursor.toNat + ws.length - 1) / 16) ∧
      t.eng.cursor.toNat = (s.eng.cursor.toNat + ws.length - 1) % 16 + 1

/-- 41_block_generator.md (closed form of the keystream, the spec's inference) and 42_commands.md section 2 (the same after RSTCTR
or RST): the `m`-th PROC answers its input XOR word `m mod 16` of block `m div 16` of the key and nonce. -/
def Obligations.KeystreamHasItsClosedForm : Prop :=
  ∀ (key : BitVec 256) (nonce : BitVec 64) (s t : State) (i : Instr) (ws : List Word), exec i s = .next t →
    (i = .init key nonce ∨ (s.eng.HoldsKey key nonce ∧ (i = .rstctr ∨ i = .rst))) →
    ∃ u, process ws t = .next u ∧
      u.history = t.history ++ okWords (ws.mapIdx fun m w =>
        w ^^^ (keystreamBlock key nonce (BitVec.ofNat 64 (m / 16)))[m % 16]'(Nat.mod_lt m (by decide)))

/-- 42_commands.md section 3 (encryption and decryption are one command, the spec's inference): what one engine answers to a buffer,
an equal engine turns back into the buffer. -/
def Obligations.ProcessIsAnInvolution : Prop :=
  ∀ (ps : List Word) (s t : State), s.eng = t.eng → s.eng.keyed = true → s.eng.cursor ≤ 16#5 →
    ∃ cs s' t', process ps s = .next s' ∧ s'.history = s.history ++ okWords cs ∧
      process cs t = .next t' ∧ t'.history = t.history ++ okWords ps

/-- 42_commands.md section 3 (buffers, one PROC a word in buffer order): on a keyed engine with the cursor in its range, two buffers
processed one after the other and their concatenation processed at once both complete, with one answer a word, in one and the same
state, and the answers to the concatenation are those to the first buffer followed by those to the second. -/
def Obligations.SplittingABufferMakesNoDifference : Prop :=
  ∀ (xs ys : List Word) (s : State), s.eng.keyed = true → s.eng.cursor ≤ 16#5 →
    ∃ as bs t u, as.length = xs.length ∧ bs.length = ys.length ∧
      process xs s = .next t ∧ t.history = s.history ++ okWords as ∧
      process ys t = .next u ∧ u.history = t.history ++ okWords bs ∧
      process (xs ++ ys) s = .next u ∧ u.history = s.history ++ okWords (as ++ bs)

/-- 90_conflicts.md C6 and 42_commands.md section 2 (the condition under which RSTCUR replays): a buffer of 1 to 16 words that began
at word 0 of the block gets the same answers again after RSTCUR. -/
def Obligations.RstcurReplaysTheCurrentBlock : Prop :=
  ∀ (ws : List Word) (s : State), ws ≠ [] → ws.length ≤ 16 → s.eng.keyed = true →
    (s.eng.cursor = 16#5 ∨ (s.eng.cursor = 0#5 ∧ s.eng.bvalid = true)) →
    ∃ cs t u v, process ws s = .next t ∧ t.history = s.history ++ okWords cs ∧
      exec .rstcur t = .next u ∧ process ws u = .next v ∧
      v.history = u.history ++ okWords cs ∧ v.eng = t.eng

/-! ## The output word port (20_memory.md section 1, 30_encoding.md section 1) -/

/-- 20_memory.md section 1 (the port `dout`: "the XOR result for an OK PROC, otherwise 0") and 30_encoding.md section 1 ("neither
keystream nor input data appears on the port when no result is due"): what the port shows after each step, by what the step did;
and right after reset. -/
def Obligations.DoutPortShowsXorResultElseZero : Prop :=
  dout State.reset = 0#32 ∧
  (∀ s t : State, step s = .next t → rspValid t = false → dout t = 0#32) ∧
  (∀ (s t : State) (p : PortSample) (rest : List PortSample), s.inputs = p :: rest → step s = .next t →
    (p.rst = true ∨ p.cmdValid = false ∨ p.cmd.op ≠ 2#3 ∨ s.eng.keyed = false → dout t = 0#32) ∧
    (p.rst = false → p.cmdValid = true → p.cmd.op = 2#3 → s.eng.keyed = true →
      (∀ h : s.eng.cursor.toNat < 16, dout t = p.cmd.din ^^^ s.eng.B[s.eng.cursor.toNat]) ∧
      (s.eng.cursor = 16#5 → dout t = p.cmd.din ^^^ (salsa20Block s.eng.S)[0])))
end

