-- ==== Sys2Proof/Laws/Command.lean ====
section
/-!
SUPPORT. The flat vector and the record of a command hold the same fields.
-/

namespace Sys2Proof

/-- A slice that lies wholly in the upper part of a concatenation. -/
theorem extractLsb'_append_upper {a b : Nat} (x : BitVec a) (y : BitVec b) (s n : Nat) :
    (x ++ y).extractLsb' (b + s) n = x.extractLsb' s n := by
  ext i hi
  have h1 : ¬ b + s + i < b := by omega
  have h2 : b + s + i - b = s + i := by omega
  simp [BitVec.getLsbD_append, h1, h2]

/-- A slice that lies wholly in the lower part of a concatenation. -/
theorem extractLsb'_append_lower {a b : Nat} (x : BitVec a) (y : BitVec b) (s n : Nat) (h : s + n ≤ b) :
    (x ++ y).extractLsb' s n = y.extractLsb' s n := by
  ext i hi
  have h1 : s + i < b := by omega
  simp [BitVec.getLsbD_append, h1]

/-- The slice that is all of the vector. -/
theorem extractLsb'_whole {n : Nat} (x : BitVec n) : x.extractLsb' 0 n = x := by
  ext i hi
  simp

theorem Command.flat_op (c : Command) : c.flat.extractLsb' 352 3 = c.op :=
  (extractLsb'_append_upper (c.op ++ c.key ++ c.nonce) c.din 320 3).trans <|
    (extractLsb'_append_upper (c.op ++ c.key) c.nonce 256 3).trans <|
      (extractLsb'_append_upper c.op c.key 0 3).trans (extractLsb'_whole c.op)

theorem Command.flat_key (c : Command) : c.flat.extractLsb' 96 256 = c.key :=
  (extractLsb'_append_upper (c.op ++ c.key ++ c.nonce) c.din 64 256).trans <|
    (extractLsb'_append_upper (c.op ++ c.key) c.nonce 0 256).trans <|
      (extractLsb'_append_lower c.op c.key 0 256 (by decide)).trans (extractLsb'_whole c.key)

theorem Command.flat_nonce (c : Command) : c.flat.extractLsb' 32 64 = c.nonce :=
  (extractLsb'_append_upper (c.op ++ c.key ++ c.nonce) c.din 0 64).trans <|
    (extractLsb'_append_lower (c.op ++ c.key) c.nonce 0 64 (by decide)).trans (extractLsb'_whole c.nonce)

theorem Command.flat_din (c : Command) : c.flat.extractLsb' 0 32 = c.din :=
  (extractLsb'_append_lower (c.op ++ c.key ++ c.nonce) c.din 0 32 (by decide)).trans (extractLsb'_whole c.din)

@[simp] theorem Command.ofFlat_flat (c : Command) : Command.ofFlat c.flat = c := by
  simp [Command.ofFlat, Command.flat_op, Command.flat_key, Command.flat_nonce, Command.flat_din]

/-- Decoding a record's flat vector is decoding the record: the ports and the flat view agree. -/
@[simp] theorem decode_flat (c : Command) : decode c.flat = decodeCommand c := by
  simp [decode]

end Sys2Proof
end

