-- ==== Sys2Proof/Laws/State.lean ====
section
/-!
SUPPORT. What each named operation leaves in each field, so that no later proof unfolds a record update.
-/

namespace Sys2Proof.Machine

section Respond
variable (st : Status) (d : Word) (e : Engine) (s : State)

@[simp] theorem respond_eng : (respond st d s).eng = s.eng := rfl
@[simp] theorem respond_inputs : (respond st d s).inputs = s.inputs := rfl
@[simp] theorem respond_rsp : (respond st d s).rsp = some ⟨st, d⟩ := rfl
@[simp] theorem respond_history : (respond st d s).history = s.history ++ [⟨st, d⟩] := rfl
@[simp] theorem respond_draws : (respond st d s).draws = s.draws := rfl

@[simp] theorem refuse_eng : (refuse st s).eng = s.eng := rfl
@[simp] theorem refuse_inputs : (refuse st s).inputs = s.inputs := rfl
@[simp] theorem refuse_rsp : (refuse st s).rsp = some ⟨st, 0⟩ := rfl
@[simp] theorem refuse_history : (refuse st s).history = s.history ++ [⟨st, 0⟩] := rfl
@[simp] theorem refuse_draws : (refuse st s).draws = s.draws := rfl

@[simp] theorem complete_eng : (complete e s).eng = e := rfl
@[simp] theorem complete_inputs : (complete e s).inputs = s.inputs := rfl
@[simp] theorem complete_rsp : (complete e s).rsp = some ⟨.ok, 0⟩ := rfl
@[simp] theorem complete_history : (complete e s).history = s.history ++ [⟨.ok, 0⟩] := rfl
@[simp] theorem complete_draws : (complete e s).draws = s.draws := rfl

@[simp] theorem idle_eng : (idle s).eng = s.eng := rfl
@[simp] theorem idle_inputs : (idle s).inputs = s.inputs := rfl
@[simp] theorem idle_rsp : (idle s).rsp = none := rfl
@[simp] theorem idle_history : (idle s).history = s.history := rfl
@[simp] theorem idle_draws : (idle s).draws = s.draws := rfl

@[simp] theorem hwReset_keyed : (hwReset s).eng.keyed = false := rfl
@[simp] theorem hwReset_bvalid : (hwReset s).eng.bvalid = false := rfl
@[simp] theorem hwReset_cursor : (hwReset s).eng.cursor = 16 := rfl
@[simp] theorem hwReset_inputs : (hwReset s).inputs = s.inputs := rfl
@[simp] theorem hwReset_rsp : (hwReset s).rsp = none := rfl
@[simp] theorem hwReset_history : (hwReset s).history = [] := rfl
@[simp] theorem hwReset_draws : (hwReset s).draws = s.draws + 32 := rfl

@[simp] theorem dout_respond : dout (respond st d s) = d := rfl
@[simp] theorem dout_refuse : dout (refuse st s) = 0 := rfl
@[simp] theorem dout_complete : dout (complete e s) = 0 := rfl
@[simp] theorem dout_idle : dout (idle s) = 0 := rfl
@[simp] theorem dout_hwReset : dout (hwReset s) = 0 := rfl

end Respond

section Blocks
variable (e : Engine) (key : BitVec 256) (nonce : BitVec 64) (b : Block)

@[simp] theorem generateBlock_S : (generateBlock e).S = ctrInc e.S := rfl
@[simp] theorem generateBlock_B : (generateBlock e).B = salsa20Block e.S := rfl
@[simp] theorem generateBlock_cursor : (generateBlock e).cursor = 0 := rfl
@[simp] theorem generateBlock_keyed : (generateBlock e).keyed = e.keyed := rfl
@[simp] theorem generateBlock_bvalid : (generateBlock e).bvalid = true := rfl

@[simp] theorem restartKeystream_S : (restartKeystream e).S = ctrInc (withCtr e.S 0) := rfl
@[simp] theorem restartKeystream_B : (restartKeystream e).B = salsa20Block (withCtr e.S 0) := rfl
@[simp] theorem restartKeystream_cursor : (restartKeystream e).cursor = 0 := rfl
@[simp] theorem restartKeystream_keyed : (restartKeystream e).keyed = e.keyed := rfl
@[simp] theorem restartKeystream_bvalid : (restartKeystream e).bvalid = true := rfl

@[simp] theorem rewindCursor_S : (rewindCursor e).S = e.S := rfl
@[simp] theorem rewindCursor_B : (rewindCursor e).B = e.B := rfl
@[simp] theorem rewindCursor_cursor : (rewindCursor e).cursor = 0 := rfl
@[simp] theorem rewindCursor_keyed : (rewindCursor e).keyed = e.keyed := rfl
@[simp] theorem rewindCursor_bvalid : (rewindCursor e).bvalid = e.bvalid := rfl

@[simp] theorem advanceCursor_S : (advanceCursor e).S = e.S := rfl
@[simp] theorem advanceCursor_B : (advanceCursor e).B = e.B := rfl
@[simp] theorem advanceCursor_cursor : (advanceCursor e).cursor = e.cursor + 1 := rfl
@[simp] theorem advanceCursor_keyed : (advanceCursor e).keyed = e.keyed := rfl
@[simp] theorem advanceCursor_bvalid : (advanceCursor e).bvalid = e.bvalid := rfl

@[simp] theorem freshEngine_S : (freshEngine key nonce b).S = stateArray key nonce 0 := rfl
@[simp] theorem freshEngine_B : (freshEngine key nonce b).B = b := rfl
@[simp] theorem freshEngine_cursor : (freshEngine key nonce b).cursor = 16 := rfl
@[simp] theorem freshEngine_keyed : (freshEngine key nonce b).keyed = true := rfl
@[simp] theorem freshEngine_bvalid : (freshEngine key nonce b).bvalid = false := rfl

end Blocks

section Ports
variable (s : State) (n w : Nat)

@[simp] theorem withFetchWord_eng : (s.withFetchWord n w).eng = s.eng := rfl
@[simp] theorem withFetchWord_inputs :
    (s.withFetchWord n w).inputs = PortSample.offer (Command.ofNat w) :: s.inputs := rfl
@[simp] theorem withFetchWord_rsp : (s.withFetchWord n w).rsp = s.rsp := rfl
@[simp] theorem withFetchWord_history : (s.withFetchWord n w).history = s.history := rfl
@[simp] theorem withFetchWord_draws : (s.withFetchWord n w).draws = s.draws := rfl

end Ports

end Sys2Proof.Machine
end

