-- ==== Sys2Proof/Laws/Blocks.lean ====
section
/-!
SUPPORT. What `perm20` is, and the counter words of a State array: what `withCtr` writes and keeps, and how it meets `ctrOf` and
`stateArray`.
-/

namespace Sys2Proof.Machine

theorem perm20_eq (x : Block) : perm20 x = doubleRounds 10 x := by
  unfold perm20; rfl

theorem ctrLow_append (h l : Word) : ctrLow (h ++ l) = l :=
  (extractLsb'_append_lower h l 0 32 (by decide)).trans (extractLsb'_whole l)

theorem ctrHigh_append (h l : Word) : ctrHigh (h ++ l) = h :=
  (extractLsb'_append_upper h l 0 32).trans (extractLsb'_whole h)

theorem ctrHigh_append_ctrLow (c : BitVec 64) : ctrHigh c ++ ctrLow c = c := by
  ext i hi
  simp only [ctrHigh, ctrLow, BitVec.getElem_append]
  split
  · simp [BitVec.getLsbD_eq_getElem hi]
  · have h : 32 + (i - 32) = i := by omega
    simp [h, BitVec.getLsbD_eq_getElem hi]

@[simp] theorem withCtr_low (s : Block) (c : BitVec 64) : (withCtr s c)[8] = ctrLow c := by
  simp [withCtr]

@[simp] theorem withCtr_high (s : Block) (c : BitVec 64) : (withCtr s c)[9] = ctrHigh c := by
  simp [withCtr]

/-- `withCtr` writes words 8 and 9 only. -/
theorem withCtr_other (s : Block) (c : BitVec 64) (i : Nat) (hi : i < 16) (h8 : i ≠ 8) (h9 : i ≠ 9) :
    (withCtr s c)[i] = s[i] := by
  simp [withCtr, h8.symm, h9.symm]

@[simp] theorem ctrOf_withCtr (s : Block) (c : BitVec 64) : ctrOf (withCtr s c) = c := by
  simp [ctrOf, ctrHigh_append_ctrLow]

@[simp] theorem ctrOf_ctrInc (s : Block) : ctrOf (ctrInc s) = ctrOf s + 1 := by
  simp [ctrInc]

/-- The later counter value wins. -/
@[simp] theorem withCtr_withCtr (s : Block) (c d : BitVec 64) : withCtr (withCtr s c) d = withCtr s d := by
  apply Vector.ext
  intro i hi
  by_cases h8 : i = 8
  · subst h8; simp
  by_cases h9 : i = 9
  · subst h9; simp
  simp [withCtr_other, h8, h9]

/-- The array with its own counter value is the array. -/
@[simp] theorem withCtr_ctrOf (s : Block) : withCtr s (ctrOf s) = s := by
  apply Vector.ext
  intro i hi
  by_cases h8 : i = 8
  · subst h8; simp [ctrOf, ctrLow_append]
  by_cases h9 : i = 9
  · subst h9; simp [ctrOf, ctrHigh_append]
  simp [withCtr_other, h8, h9]

@[simp] theorem ctrOf_stateArray (key : BitVec 256) (nonce c : BitVec 64) :
    ctrOf (stateArray key nonce c) = c := by
  simp [ctrOf, stateArray, ctrHigh_append_ctrLow]

@[simp] theorem withCtr_stateArray (key : BitVec 256) (nonce c d : BitVec 64) :
    withCtr (stateArray key nonce c) d = stateArray key nonce d := by
  simp [withCtr, stateArray]

end Sys2Proof.Machine
end

