-- ==== Sys2Proof/Laws/Ops.lean ====
section
/-!
SUPPORT. What each shared operation can do, said once: the checks, the guard, PROC's read, a port sample, a step, and `exec`.
-/

namespace Sys2Proof.Machine

theorem keyedCheck_keyed {e : Engine} (h : e.keyed = true) : keyedCheck e = none := by simp [keyedCheck, h]

theorem keyedCheck_unkeyed {e : Engine} (h : e.keyed = false) : keyedCheck e = some .errNotKeyed := by
  simp [keyedCheck, h]

theorem keyedCheck_eq_none {e : Engine} (h : keyedCheck e = none) : e.keyed = true := by
  cases hk : e.keyed <;> simp [keyedCheck, hk] at h ⊢

theorem blockCheck_valid {e : Engine} (h : e.keyed = true) (hb : e.bvalid = true) : blockCheck e = none := by
  simp [blockCheck, h, hb]

theorem blockCheck_unkeyed {e : Engine} (h : e.keyed = false) : blockCheck e = some .errNotKeyed := by
  simp [blockCheck, h]

theorem blockCheck_noBlock {e : Engine} (h : e.keyed = true) (hb : e.bvalid = false) :
    blockCheck e = some .errNoBlock := by
  simp [blockCheck, h, hb]

theorem blockCheck_eq_none {e : Engine} (h : blockCheck e = none) : e.keyed = true ∧ e.bvalid = true := by
  cases hk : e.keyed <;> cases hb : e.bvalid <;> simp [blockCheck, hk, hb] at h ⊢

/-- A guarded command is refused with the status of its check, or runs. -/
theorem guarded_next {c : Option Status} {s t : State} {run : Host.Outcome State Fault Refusal}
    (h : guarded c s run = .next t) : (∃ st, c = some st ∧ t = refuse st s) ∨ (c = none ∧ run = .next t) := by
  cases c with
  | none => exact .inr ⟨rfl, h⟩
  | some st => exact .inl ⟨st, rfl, by simpa [guarded] using h.symm⟩

@[simp] theorem guarded_none (s : State) (run : Host.Outcome State Fault Refusal) : guarded none s run = run := rfl

@[simp] theorem guarded_some (st : Status) (s : State) (run : Host.Outcome State Fault Refusal) :
    guarded (some st) s run = .next (refuse st s) := rfl

theorem readyBlock_exhausted {e : Engine} (h : e.cursor = 16) : readyBlock e = generateBlock e := by
  simp [readyBlock, exhausted, h]

theorem readyBlock_not_exhausted {e : Engine} (h : e.cursor ≠ 16) : readyBlock e = e := by
  have h' : exhausted e = false := by simpa [exhausted] using h
  simp [readyBlock, h']

@[simp] theorem readyBlock_keyed (e : Engine) : (readyBlock e).keyed = e.keyed := by
  unfold readyBlock; split <;> rfl

/-- After PROC's test the cursor is an index of `B`, if it was in its range. -/
theorem readyBlock_cursor_lt {e : Engine} (h : e.cursor ≤ 16) : (readyBlock e).cursor.toNat < 16 := by
  by_cases hc : e.cursor = 16
  · simp [readyBlock_exhausted hc]
  · rw [readyBlock_not_exhausted hc]
    have h1 : e.cursor.toNat ≤ 16 := by simpa [BitVec.le_def] using h
    have h2 : e.cursor.toNat ≠ 16 := fun h' => hc (BitVec.eq_of_toNat_eq (by simpa using h'))
    omega

theorem keystreamWord_lt {e : Engine} (h : e.cursor.toNat < 16) : keystreamWord e = some e.B[e.cursor.toNat] := by
  simp [keystreamWord, h]

/-- What PROC does on a keyed engine with the cursor in its range. -/
theorem consumeWord_next {s : State} (din : Word) (h : s.eng.cursor ≤ 16) :
    consumeWord din s = .next (respond .ok
      (xor32 din ((readyBlock s.eng).B[(readyBlock s.eng).cursor.toNat]'(readyBlock_cursor_lt h)))
      { s with eng := advanceCursor (readyBlock s.eng) }) := by
  simp [consumeWord, keystreamWord_lt (readyBlock_cursor_lt h)]

/-- A next state of PROC on a keyed engine: the word was there, and the cursor advanced. -/
theorem consumeWord_cases {din : Word} {s t : State} (h : consumeWord din s = .next t) :
    ∃ z, keystreamWord (readyBlock s.eng) = some z ∧
      t = respond .ok (xor32 din z) { s with eng := advanceCursor (readyBlock s.eng) } := by
  cases hz : keystreamWord (readyBlock s.eng) with
  | some z => exact ⟨z, rfl, by simpa [consumeWord, hz] using h.symm⟩
  | none => simp [consumeWord, hz] at h

/-- Everything a command can do when it answers a next state: refuse, construct, consume a word, restart the keystream, rewind. -/
theorem exec_next {i : Instr} {s t : State} (h : exec i s = .next t) :
    (∃ st, st ≠ .ok ∧ t = refuse st s ∧ ∀ key nonce, i ≠ .init key nonce) ∨
    (∃ key nonce, i = .init key nonce ∧
      t = complete (freshEngine key nonce (Config.freeBlock s.draws)) { s with draws := s.draws + 16 }) ∨
    (∃ din z, i = .proc din ∧ s.eng.keyed = true ∧ keystreamWord (readyBlock s.eng) = some z ∧
      t = respond .ok (xor32 din z) { s with eng := advanceCursor (readyBlock s.eng) }) ∨
    ((i = .rstctr ∨ i = .rst) ∧ s.eng.keyed = true ∧ t = complete (restartKeystream s.eng) s) ∨
    (i = .rstcur ∧ s.eng.keyed = true ∧ s.eng.bvalid = true ∧ t = complete (rewindCursor s.eng) s) := by
  cases i with
  | init key nonce => exact .inr (.inl ⟨key, nonce, rfl, by simpa [exec, execInit] using h.symm⟩)
  | proc din =>
    obtain ⟨st, hc, rfl⟩ | ⟨hc, hr⟩ := guarded_next h
    · refine .inl ⟨st, ?_, rfl, by simp⟩
      unfold keyedCheck at hc; split at hc <;> simp_all
      rintro rfl; cases hc
    · obtain ⟨z, hz, rfl⟩ := consumeWord_cases hr
      exact .inr (.inr (.inl ⟨din, z, rfl, keyedCheck_eq_none hc, hz, rfl⟩))
  | rstctr =>
    obtain ⟨st, hc, rfl⟩ | ⟨hc, hr⟩ := guarded_next h
    · refine .inl ⟨st, ?_, rfl, by simp⟩
      unfold keyedCheck at hc; split at hc <;> simp_all
      rintro rfl; cases hc
    · exact .inr (.inr (.inr (.inl ⟨.inl rfl, keyedCheck_eq_none hc, by simpa using hr.symm⟩)))
  | rstcur =>
    obtain ⟨st, hc, rfl⟩ | ⟨hc, hr⟩ := guarded_next h
    · refine .inl ⟨st, ?_, rfl, by simp⟩
      unfold blockCheck at hc
      rintro rfl
      split at hc
      · split at hc <;> cases hc
      · cases hc
    · obtain ⟨hk, hb⟩ := blockCheck_eq_none hc
      exact .inr (.inr (.inr (.inr ⟨rfl, hk, hb, by simpa using hr.symm⟩)))
  | rst =>
    obtain ⟨st, hc, rfl⟩ | ⟨hc, hr⟩ := guarded_next h
    · refine .inl ⟨st, ?_, rfl, by simp⟩
      unfold keyedCheck at hc; split at hc <;> simp_all
      rintro rfl; cases hc
    · have he : rewindCursor (restartKeystream s.eng) = restartKeystream s.eng := rfl
      exact .inr (.inr (.inr (.inl ⟨.inr rfl, keyedCheck_eq_none hc, by simpa [he] using hr.symm⟩)))
  | reserved0 => exact .inl ⟨.errIllegalOp, by simp, by simpa [exec, execReserved0] using h.symm, by simp⟩
  | reserved6 => exact .inl ⟨.errIllegalOp, by simp, by simpa [exec, execReserved6] using h.symm, by simp⟩
  | reserved7 => exact .inl ⟨.errIllegalOp, by simp, by simpa [exec, execReserved7] using h.symm, by simp⟩

/-- What one port sample can do: reset, run the offered command, or nothing. -/
theorem onSample_next {p : PortSample} {s t : State} (h : onSample p s = .next t) :
    (p.rst = true ∧ t = hwReset s) ∨
    (p.rst = false ∧ p.cmdValid = true ∧ exec (decodeCommand p.cmd) s = .next t) ∨
    (p.rst = false ∧ p.cmdValid = false ∧ t = idle s) := by
  unfold onSample at h
  cases hr : p.rst <;> cases hv : p.cmdValid <;> simp_all

theorem step_nil {s : State} (h : s.inputs = []) : step s = .next (idle s) := by
  simp [step, takeSample, h, onSample, PortSample.idle]

theorem step_cons {s : State} {p : PortSample} {rest : List PortSample} (h : s.inputs = p :: rest) :
    step s = onSample p { s with inputs := rest } := by
  simp [step, takeSample, h]

end Sys2Proof.Machine
end

