-- ==== Sys2Proof/Laws/PerInstr.lean ====
section
/-!
SUPPORT. The family EncodedOpcode, about a command as syntax: it is well formed, and its flat encoding carries its row's opcode in
bits 354:352 (30_encoding.md R60, R61).
-/

/-- The command is well formed and its encoding's opcode bits are its row's. -/
def Sys2Proof.Laws.EncodedOpcode.Statement (i : Sys2Proof.Instr) : Prop :=
  i.wellFormed = true ∧ (Sys2Proof.encode i).extractLsb' 352 3 = i.op

namespace Sys2Proof.Laws.EncodedOpcode

theorem init (key : BitVec 256) (nonce : BitVec 64) : Statement (.init key nonce) := ⟨rfl, Command.flat_op _⟩
theorem proc (din : Word) : Statement (.proc din) := ⟨rfl, Command.flat_op _⟩
theorem rstctr : Statement .rstctr := ⟨rfl, Command.flat_op _⟩
theorem rstcur : Statement .rstcur := ⟨rfl, Command.flat_op _⟩
theorem rst : Statement .rst := ⟨rfl, Command.flat_op _⟩
theorem reserved0 : Statement .reserved0 := ⟨rfl, Command.flat_op _⟩
theorem reserved6 : Statement .reserved6 := ⟨rfl, Command.flat_op _⟩
theorem reserved7 : Statement .reserved7 := ⟨rfl, Command.flat_op _⟩

end Sys2Proof.Laws.EncodedOpcode
end

