-- ==== Sys2Proof/Laws/Process.lean ====
section
/-!
SUPPORT. Runs over port samples and over buffers: how they begin and how they join, and what a buffer of PROC commands can do on a
keyed engine whose cursor is in its range.
-/

namespace Sys2Proof.Machine

@[simp] theorem runSamples_nil (s : State) : runSamples [] s = .next s := rfl

theorem runSamples_cons {p : PortSample} {ps : List PortSample} {s t : State} (h : onSample p s = .next t) :
    runSamples (p :: ps) s = runSamples ps t := by
  simp [runSamples, h]

/-- A run that reached a state goes on from there. -/
theorem runSamples_append {ps qs : List PortSample} {s t : State} (h : runSamples ps s = .next t) :
    runSamples (ps ++ qs) s = runSamples qs t := by
  induction ps generalizing s with
  | nil => cases h; rfl
  | cons p ps ih =>
    cases hp : onSample p s with
    | next s' => rw [List.cons_append, runSamples_cons hp]; exact ih (by rwa [runSamples_cons hp] at h)
    | fault r => simp [runSamples, hp] at h
    | refused r => simp [runSamples, hp] at h

@[simp] theorem procSamples_append (xs ys : List Word) : procSamples (xs ++ ys) = procSamples xs ++ procSamples ys := by
  simp [procSamples, offers]

@[simp] theorem okWords_append (xs ys : List Word) : okWords (xs ++ ys) = okWords xs ++ okWords ys := by
  simp [okWords]

@[simp] theorem process_nil (s : State) : process [] s = .next s := rfl

/-- The first word of a buffer is one PROC. -/
theorem process_cons {w : Word} {ws : List Word} {s t : State} (h : exec (.proc w) s = .next t) :
    process (w :: ws) s = process ws t := runSamples_cons h

theorem process_append {xs ys : List Word} {s t : State} (h : process xs s = .next t) :
    process (xs ++ ys) s = process ys t := by
  unfold process at *
  rw [procSamples_append]
  exact runSamples_append h

/-- PROC on a keyed engine with the cursor in its range completes: it is `consumeWord`. -/
theorem execProc_next {s : State} (din : Word) (hk : s.eng.keyed = true) (hc : s.eng.cursor ≤ 16) :
    exec (.proc din) s = .next (respond .ok
      (xor32 din ((readyBlock s.eng).B[(readyBlock s.eng).cursor.toNat]'(readyBlock_cursor_lt hc)))
      { s with eng := advanceCursor (readyBlock s.eng) }) := by
  simp [exec, execProc, keyedCheck_keyed hk, consumeWord_next din hc]

/-- The cursor after one word. -/
theorem advanceCursor_toNat {e : Engine} (hc : e.cursor ≤ 16) :
    (advanceCursor (readyBlock e)).cursor.toNat = (readyBlock e).cursor.toNat + 1 := by
  have := readyBlock_cursor_lt hc
  simp [advanceCursor]
  omega

/-- One word consumed keeps the cursor in its range. -/
theorem advanceCursor_le {e : Engine} (hc : e.cursor ≤ 16) : (advanceCursor (readyBlock e)).cursor ≤ 16 := by
  have h1 := readyBlock_cursor_lt hc
  have h2 := advanceCursor_toNat hc
  rw [BitVec.le_def, h2]
  simpa using h1

/-- What a buffer can do: it completes with one answer a word, and leaves the engine keyed with the cursor in its range. -/
theorem process_next (ws : List Word) {s : State} (hk : s.eng.keyed = true) (hc : s.eng.cursor ≤ 16) :
    ∃ cs t, cs.length = ws.length ∧ process ws s = .next t ∧ t.history = s.history ++ okWords cs ∧
      t.eng.keyed = true ∧ t.eng.cursor ≤ 16 := by
  induction ws generalizing s with
  | nil => exact ⟨[], s, rfl, rfl, by simp [okWords], hk, hc⟩
  | cons w ws ih =>
    have h := execProc_next w hk hc
    obtain ⟨cs, t, hl, hp, hh, hk', hc'⟩ := ih (s := respond .ok _ { s with eng := advanceCursor (readyBlock s.eng) })
      (by simpa [advanceCursor] using hk) (advanceCursor_le hc)
    exact ⟨_ :: cs, t, by simp [hl], (process_cons h).trans hp, by simpa [okWords] using hh, hk', hc'⟩

end Sys2Proof.Machine
end

