-- ==== Sys2Proof/Tests/Slice0.lean ====
section
/-!
SUPPORT. Tests on small cases, their expected results from the spec's rules, tables and 95_test_vectors.md; the smoke tests of
WellFormed; and, for every statement with hypotheses, a witness that meets them.
-/

namespace Sys2Proof.Tests

open Sys2Proof Sys2Proof.Machine

/-! ## States the tests start from -/

/-- The next state, where there is one. -/
def after (o : Host.Outcome State Fault Refusal) : State :=
  match o with
  | .next t => t
  | _ => State.reset

/-- The response an outcome presents. -/
def answer (o : Host.Outcome State Fault Refusal) : Option Response := (after o).rsp

/-- Operand set `Z` of 95_test_vectors.md, freshly constructed. -/
def freshZ : State := after (exec (.init 0 0) State.reset)

/-- Operand set `T` of 95_test_vectors.md. -/
def keyT : BitVec 256 := 0x201f1e1d1c1b1a191817161514131211100f0e0d0c0b0a090807060504030201
def nonceT : BitVec 64 := 0x6c6b6a6968676665
def freshT : State := after (exec (.init keyT nonceT) State.reset)

/-- An engine given by its cursor, its flags and its counter, with `B[i] = i`. -/
def engineAt (cursor : BitVec 5) (keyed bvalid : Bool) (c : BitVec 64) : Engine :=
  ⟨stateArray 0 0 c, #v[0, 1, 2, 3, 4, 5, 6, 7, 8, 9, 10, 11, 12, 13, 14, 15], cursor, keyed, bvalid⟩

/-- A state with that engine and nothing left to drive. -/
def stateAt (cursor : BitVec 5) (keyed bvalid : Bool) (c : BitVec 64) : State :=
  { State.reset with eng := engineAt cursor keyed bvalid c }

/-! ## WellFormed: an ill-formed term for each check -/

theorem test_wellFormed_refuses_short_key : keyBytesOk (List.replicate 31 0) = false := by decide
theorem test_wellFormed_accepts_key : keyBytesOk (List.replicate 32 0) = true := by decide
theorem test_wellFormed_refuses_long_nonce : nonceBytesOk (List.replicate 9 0) = false := by decide
theorem test_wellFormed_accepts_nonce : nonceBytesOk (List.replicate 8 0) = true := by decide
theorem test_wellFormed_refuses_odd_buffer : bufferOk (List.replicate 65 0) = false := by decide
theorem test_wellFormed_refuses_op_8 : opDigitOk 8 = false := by decide

/-! ## Decoding: words written out from the encoding table of R60, R61 and R68 -/

/-- `001 ∥ key ∥ nonce ∥ din`, the flat `INIT T` of 95_test_vectors.md section 3. -/
theorem test_decode_init :
    decodeTableWord 360 0x1201f1e1d1c1b1a191817161514131211100f0e0d0c0b0a0908070605040302016c6b6a696867666500000000 =
      some (.init keyT nonceT) := by decide

/-- `010 ∥ x… ∥ din` with every ignored bit set: ignored fields do not matter (R60). -/
theorem test_decode_proc_ignores_key_and_nonce :
    decodeTableWord 360 0x2ffffffffffffffffffffffffffffffffffffffffffffffffffffffffffffffffffffffffffffffffdeadbeef =
      some (.proc 0xdeadbeef) := by decide

theorem test_decode_rstctr :
    decodeTableWord 360 0x30000000000000000000000000000000000000000000000000000000000000000000000000000000000000000 =
      some .rstctr := by decide
theorem test_decode_rstcur :
    decodeTableWord 360 0x40000000000000000000000000000000000000000000000000000000000000000000000000000000000000000 =
      some .rstcur := by decide
theorem test_decode_rst :
    decodeTableWord 360 0x50000000000000000000000000000000000000000000000000000000000000000000000000000000000000000 =
      some .rst := by decide
theorem test_decode_reserved0 : decodeTableWord 360 0xffffffff = some .reserved0 := by decide
theorem test_decode_reserved6 :
    decodeTableWord 360 0x60000000000000000000000000000000000000000000000000000000000000000000000000000000000000001 =
      some .reserved6 := by decide
theorem test_decode_reserved7 :
    decodeTableWord 360 0x70000000000000000000000000000000000000000000000000000000000000000000000000000000000000000 =
      some .reserved7 := by decide

/-- A number with a 1 above bit 354 is no command record. -/
theorem test_decode_rejects_wider_number :
    decodeNat 0x80000000000000000000000000000000000000000000000000000000000000000000000000000000000000000 =
      .error .widerThanACommand := by decide

/-- The mask and the match of the table's rows INIT and RESERVED7, as spec/opcode_table.json writes them. -/
theorem test_opcode_row_numbers :
    opMask.toNat = 0x70000000000000000000000000000000000000000000000000000000000000000000000000000000000000000 ∧
    (opcodeRow "INIT" 1).pattern.toNat =
      0x10000000000000000000000000000000000000000000000000000000000000000000000000000000000000000 := by decide

/-- Two rows of the opcode table never select one word: their patterns differ under one mask. -/
theorem test_opcode_rows_disjoint :
    opcodeTable.Pairwise (fun a b => a.mask = b.mask ∧ a.pattern ≠ b.pattern) := by decide

/-- The placed word is what the next step runs: PROC on the unkeyed machine is refused (R120). -/
theorem test_step_runs_placed_word :
    answer (step (State.reset.withFetchWord 360
      0x200000000000000000000000000000000000000000000000000000000000000000000000000000000deadbeef)) =
      some ⟨.errNotKeyed, 0⟩ := by decide

/-! ## Arithmetic and rounds: 95_test_vectors.md sections 2.1 to 2.4 -/

theorem test_rotl32_top_bit : rotl32 0x80000000 1 = 0x00000001 := by decide
theorem test_rotl32_by_31 : rotl32 0x00000003 31 = 0x80000001 := by decide

/-- The row with a one in `d` alone tells the operand order and the rotation amounts apart. -/
theorem test_quarterRound_unit_d :
    quarterRound 0 0 0 1 = (0x00048044, 0x00000080, 0x00010000, 0x20100001) := by decide
theorem test_quarterRound_mixed :
    quarterRound 0xd3917c5b 0x55f1c407 0x52a58a7a 0x8f887a3b =
      (0x3e2f308c, 0xd90a8f36, 0x6ab2a923, 0x2883524c) := by decide

/-- `QR(x, 5, 9, 13, 1)` on `x[i] = i`. -/
theorem test_qr_in_place :
    qr #v[0, 1, 2, 3, 4, 5, 6, 7, 8, 9, 10, 11, 12, 13, 14, 15] 5 9 13 1 =
      #v[0x00000000, 0xc3e2c001, 2, 3, 4, 0x703b0fa6, 6, 7, 8, 0x00000309, 10, 11, 12, 0x00061c0d, 14, 15] := by decide

theorem test_doubleRound_unit :
    doubleRound #v[1, 0, 0, 0, 0, 0, 0, 0, 0, 0, 0, 0, 0, 0, 0, 0] =
      #v[0x8186a22d, 0x0040a284, 0x82479210, 0x06929051, 0x08000090, 0x02402200, 0x00004000, 0x00800000,
         0x00010200, 0x20400000, 0x08008104, 0x00000000, 0x20500000, 0xa0000040, 0x0008180a, 0x612a8020] := by
  decide +kernel

/-- Counter carry and wrap (section 2.5). -/
theorem test_ctrInc_carry : ctrOf (ctrInc (stateArray 0 0 0x00000000ffffffff)) = 0x0000000100000000 := by decide
theorem test_ctrInc_wrap : ctrOf (ctrInc (stateArray 0 0 0xffffffffffffffff)) = 0 := by decide

/-- Byte order (section 2.8): nonce word 1 goes to `S[7]`, key word 7 to `S[14]`. -/
theorem test_key_and_nonce_lanes :
    keyOfBytes [1, 2, 3, 4, 5, 6, 7, 8, 9, 10, 11, 12, 13, 14, 15, 16, 17, 18, 19, 20, 21, 22, 23, 24, 25, 26, 27, 28,
      29, 30, 31, 32] = keyT ∧
    nonceOfBytes [0x65, 0x66, 0x67, 0x68, 0x69, 0x6a, 0x6b, 0x6c] = nonceT ∧
    (stateArray keyT nonceT 0)[14] = 0x201f1e1d ∧ (stateArray keyT nonceT 0)[7] = 0x6c6b6a69 := by decide
theorem test_dout_as_bytes : bytesOfWord 0x8193b42a = [0x2a, 0xb4, 0x93, 0x81] := by decide

/-! ## Commands: 95_test_vectors.md sections 2.6 and 3 -/

theorem test_init_state : freshT.eng.S = stateArray keyT nonceT 0 ∧ freshT.eng.cursor = 16 ∧ ctrPort freshT = some 0 := by
  decide
theorem test_init_rekeys :
    (after (exec (.init 0 0) freshT)).eng.S[1] = 0 ∧ answer (exec (.init 0 0) freshT) = some ⟨.ok, 0⟩ := by decide

/-- `INIT T`, `PROC deadbeef -> 5f3f08c6`. -/
theorem test_proc_fresh : answer (exec (.proc 0xdeadbeef) freshT) = some ⟨.ok, 0x5f3f08c6⟩ := by decide +kernel
/-- At cursor 15 the word is `B[15]` and the cursor is left at 16. -/
theorem test_proc_last_word :
    answer (exec (.proc 0) (stateAt 15 true true 1)) = some ⟨.ok, 15⟩ ∧
    (after (exec (.proc 0) (stateAt 15 true true 1))).eng.cursor = 16 := by decide

/-- After RSTCTR the counter reads 1, the cursor 0. -/
theorem test_rstctr : ctrPort (after (exec .rstctr (stateAt 1 true true 2))) = some 1 ∧
    (after (exec .rstctr (stateAt 1 true true 2))).eng.cursor = 0 := by decide
theorem test_rstctr_unkeyed : answer (exec .rstctr State.reset) = some ⟨.errNotKeyed, 0⟩ := by decide

theorem test_rstcur : (after (exec .rstcur (stateAt 16 true true 1))).eng = engineAt 0 true true 1 := by decide
theorem test_rstcur_refusals : answer (exec .rstcur State.reset) = some ⟨.errNotKeyed, 0⟩ ∧
    answer (exec .rstcur freshT) = some ⟨.errNoBlock, 0⟩ := by decide

theorem test_rst : ctrPort (after (exec .rst (stateAt 4 true true 2))) = some 1 ∧
    (after (exec .rst (stateAt 4 true true 2))).eng.bvalid = true := by decide
theorem test_rst_unkeyed : answer (exec .rst State.reset) = some ⟨.errNotKeyed, 0⟩ := by decide

theorem test_reserved0 : answer (exec .reserved0 State.reset) = some ⟨.errIllegalOp, 0⟩ := by decide
theorem test_reserved6 : answer (exec .reserved6 freshT) = some ⟨.errIllegalOp, 0⟩ := by decide
theorem test_reserved7 : (after (exec .reserved7 (stateAt 4 true true 2))).eng = engineAt 4 true true 2 := by decide

/-- `dout` shows 0 while no response is presented (R41): after reset, and in an idle step after a PROC. -/
theorem test_dout_port_idle :
    dout State.reset = 0 ∧ dout (after (exec (.proc 0) (stateAt 15 true true 1))) = 15 ∧
    dout (after (step (after (exec (.proc 0) (stateAt 15 true true 1))))) = 0 := by decide

/-- HWRESET with a command offered: the command is lost, the key forgotten. -/
theorem test_hwreset_beats_command :
    (after (step { freshT with inputs := [⟨true, true, encodeCommand .rst⟩] })).eng.keyed = false ∧
    (after (step { freshT with inputs := [⟨true, true, encodeCommand .rst⟩] })).history = [] := by decide

/-- A line of 95_test_vectors.md section 3.3, and the source's errors at the wrapper. -/
theorem test_script_line : parseLine "PROC deadbeef -> OK 5f3f08c6" = .ok (.proc 0xdeadbeef, some (.okWith 0x5f3f08c6)) := by
  decide
theorem test_script_wrong_lengths :
    (ScriptLine.init [1] []).samples = .error .invalidKeyLength ∧
    (ScriptLine.init (List.replicate 32 0) [1]).samples = .error .invalidNonceLength ∧
    wordsOfBuffer [1, 2, 3, 4, 5] = .error .unalignedInput ∧ wordsOfBuffer [3, 2, 1, 0] = .ok [0x00010203] := by decide

/-! ## Witnesses: for every statement with hypotheses, values that meet them, one for each clause -/

theorem witness_Rotl32MovesEveryBit : (1 ≤ 1 ∧ 1 ≤ 31 ∧ 0 < 32) ∧ (1 ≤ 31 ∧ 31 ≤ 31 ∧ 31 < 32) := by decide
theorem witness_XorIsBitwiseAndSelfInverse : 0 < 32 ∧ 31 < 32 := by decide
theorem witness_QuarterRoundWritesItsFourPositions :
    (0 : Fin 16) ≠ 4 ∧ (0 : Fin 16) ≠ 8 ∧ (0 : Fin 16) ≠ 12 ∧ (4 : Fin 16) ≠ 8 ∧ (4 : Fin 16) ≠ 12 ∧ (8 : Fin 16) ≠ 12 ∧
    (15 : Fin 16) ≠ 0 ∧ (15 : Fin 16) ≠ 4 ∧ (15 : Fin 16) ≠ 8 ∧ (15 : Fin 16) ≠ 12 ∧
    quarterRound 1 0 0 0 = (0x08008145, 0x00000080, 0x00010200, 0x20500000) := by decide
theorem witness_QuarterRoundIsInjective : quarterRound 1 2 3 4 = quarterRound 1 2 3 4 := rfl
theorem witness_ColumnRoundIsFourQuarterRoundsAtOnce :
    columnRound (stateArray 0 0 1) = columnRound (stateArray 0 0 1) := rfl
theorem witness_RowRoundIsFourQuarterRoundsAtOnce : rowRound (stateArray 0 0 1) = rowRound (stateArray 0 0 1) := rfl
theorem witness_DisjointQuarterRoundsCommute :
    ([0, 4, 8, 12] : List (Fin 16)).Disjoint [5, 9, 13, 1] ∧ ([0, 4, 8, 12] : List (Fin 16)).Nodup ∧
    ([5, 9, 13, 1] : List (Fin 16)).Nodup :=
  ⟨fun a => by revert a; decide, by decide, by decide⟩
theorem witness_QuarterRoundZeroCheck : (1 ≤ 1 ∧ 1 ≤ 31) ∧ (1 ≤ 18 ∧ 18 ≤ 31) ∧ (1 ≤ 31 ∧ 31 ≤ 31) := by decide
theorem witness_AllZeroBufferIsFixed : ∀ j : Fin 16, (Vector.replicate 16 (0 : Word))[j] = 0 := by simp
theorem witness_CtrIncAddsOneModTwoPow64 :
    ((0 : Fin 16) ≠ 8 ∧ (0 : Fin 16) ≠ 9) ∧ ((15 : Fin 16) ≠ 8 ∧ (15 : Fin 16) ≠ 9) ∧
    ((stateArray 0 0 0x00000000ffffffff)[8] = 0xffffffff#32 ∧ (stateArray 0 0 0x00000000ffffffff)[9] = 0) ∧
    (stateArray 0 0 0x00000000fffffffe)[8] = 0xfffffffe#32 ∧
    ((stateArray 0 0 0)[8] = 0#32 ∧ (stateArray 0 0 0)[9] = 0#32) := by decide
theorem witness_CounterWrapsSilently :
    (stateAt 16 true true 0xffffffffffffffff).eng.keyed = true ∧
    (stateAt 16 true true 0xffffffffffffffff).eng.cursor = 16 ∧
    (stateAt 16 true true 0xffffffffffffffff).eng.S[8] = 0xffffffff#32 ∧
    (stateAt 16 true true 0xffffffffffffffff).eng.S[9] = 0xffffffff#32 ∧ 5 % 2 ^ 64 = (2 ^ 64 + 5) % 2 ^ 64 := by decide
theorem witness_GenerateBlockMakesBlockOfOldCounter : (7 : Fin 16) ≠ 8 ∧ (7 : Fin 16) ≠ 9 := by decide
theorem witness_PortLanesAreLittleEndian :
    (7 < 8 ∧ 31 < 32) ∧ (1 < 2 ∧ 31 < 32) ∧ ((List.replicate 32 (0xa5 : Byte)).length = 32 ∧ 31 < 32) ∧
    ((List.replicate 8 (0xa5 : Byte)).length = 8 ∧ 7 < 8) := by decide
theorem witness_WrapperRefusesWrongLengths :
    bufferOk (List.replicate 8 0) = true ∧
    ((List.replicate 31 (0 : Byte)).length ≠ 32 ∧ (List.replicate 8 (0 : Byte)).length = 8) ∧
    ((List.replicate 33 (0 : Byte)).length ≠ 32 ∧ (List.replicate 7 (0 : Byte)).length ≠ 8) ∧
    ((List.replicate 32 (0 : Byte)).length = 32 ∧ (List.replicate 9 (0 : Byte)).length ≠ 8) ∧
    ((List.replicate 32 (0 : Byte)).length = 32 ∧ (List.replicate 8 (0 : Byte)).length = 8) := by decide
theorem witness_DecodeInvertsEncode : (Instr.init keyT nonceT).wellFormed = true ∧ Instr.reserved7.wellFormed = true := by
  decide
theorem witness_DecodeReadsExactlyTheUsedFields :
    (encode (.init keyT nonceT)).extractLsb' 352 3 = 1#3 ∧ (encode (.proc 5)).extractLsb' 352 3 = 2#3 :=
  ⟨Command.flat_op _, Command.flat_op _⟩
theorem witness_OpcodeTableIsATotalDecoder : opcodeRow "INIT" 1 ∈ opcodeTable ∧ opcodeRow "RESERVED7" 7 ∈ opcodeTable := by
  decide
theorem witness_StepRunsTheDecodedCommand :
    let p := PortSample.offer (encodeCommand (.proc 5))
    ({ freshZ with inputs := [p] } : State).inputs = p :: [] ∧ p.rst = false ∧ p.cmdValid = true ∧
      decode p.cmd.flat = .proc 5 := ⟨rfl, rfl, rfl, decode_flat _⟩
theorem witness_IdleStepChangesNoEngineState :
    freshZ.inputs = [] ∧ PortSample.idle.rst = false ∧ PortSample.idle.cmdValid = false := by decide
theorem witness_HardwareResetBeatsAnyCommand :
    ({ freshZ with inputs := [PortSample.hwreset] } : State).inputs = PortSample.hwreset :: [] ∧
    PortSample.hwreset.rst = true := ⟨rfl, rfl⟩
/-- One sample of each kind is stepped to a next state. -/
theorem witness_OneResponsePerAcceptedCommand :
    (∃ t, step { freshZ with inputs := [PortSample.offer (encodeCommand .reserved7)] } = .next t) ∧
    (∃ t, step { freshZ with inputs := [PortSample.idle] } = .next t) ∧
    (∃ t, step { freshZ with inputs := [PortSample.hwreset] } = .next t) := ⟨⟨_, rfl⟩, ⟨_, rfl⟩, ⟨_, rfl⟩⟩
theorem witness_StepsFollowTheOfferedOrder :
    ({ freshZ with inputs := offers [.reserved7, .init 0 0] ++ [PortSample.idle] } : State).inputs =
      offers [.reserved7, .init 0 0] ++ [PortSample.idle] ∧
    ∃ t, runSamples (offers [.reserved7, .init 0 0]) { freshZ with inputs := [PortSample.idle] } = .next t :=
  ⟨rfl, _, rfl⟩
theorem witness_CounterPortShowsWordsNineAndEight : freshZ.eng.keyed = true ∧ State.reset.eng.keyed = false := by decide
theorem witness_CommandChecksInOrder :
    ((encodeCommand .reserved6).op ∉ [1#3, 2#3, 3#3, 4#3, 5#3]) ∧
    ((encodeCommand (.proc 5)).op ∈ [2#3, 3#3, 4#3, 5#3] ∧ State.reset.eng.keyed = false) ∧
    ((encodeCommand .rstcur).op = 4#3 ∧ freshZ.eng.keyed = true ∧ freshZ.eng.bvalid = false) ∧
    ((encodeCommand .rstcur).op ∈ [1#3, 2#3, 3#3, 4#3, 5#3] ∧ (stateAt 16 true true 1).eng.keyed = true ∧
      (stateAt 16 true true 1).eng.bvalid = true ∧ (stateAt 16 true true 1).eng.cursor ≤ 16#5) := by decide
/-- Each status is some command's answer. -/
theorem witness_RefusalsAreExactlyThese :
    answer (exec .rst State.reset) = some ⟨.errNotKeyed, 0⟩ ∧ answer (exec .rstcur freshZ) = some ⟨.errNoBlock, 0⟩ ∧
    answer (exec .reserved7 freshZ) = some ⟨.errIllegalOp, 0⟩ ∧ answer (exec (.init 0 0) freshZ) = some ⟨.ok, 0⟩ := by decide
theorem witness_RefusalLeavesNoTrace : ∃ t, exec .rstcur (stateAt 3 true true 1) = .next t := ⟨_, rfl⟩
theorem witness_ProcXorsTheNextKeystreamWord :
    State.reset.eng.keyed = false ∧
    ((stateAt 0 true true 1).eng.cursor.toNat < 16 ∧ (stateAt 0 true true 1).eng.keyed = true) ∧
    ((stateAt 15 true true 1).eng.cursor.toNat < 16 ∧ (stateAt 15 true true 1).eng.keyed = true) ∧
    (freshZ.eng.cursor = 16#5 ∧ freshZ.eng.keyed = true) ∧ (∃ t, exec (.init 0#256 0#64) State.reset = .next t) :=
  ⟨by decide, by decide, by decide, by decide, _, rfl⟩
theorem witness_ProcFaultsOnlyOutsideCursorRange :
    (stateAt 17 true true 1).eng.keyed = true ∧ 16#5 < (stateAt 17 true true 1).eng.cursor ∧
    ¬ 16#5 < (stateAt 16 true true 1).eng.cursor := by decide
theorem witness_RstctrRegeneratesBlockZero : State.reset.eng.keyed = false ∧ freshZ.eng.keyed = true := by decide
theorem witness_RstcurRewindsTheCursorOnly :
    State.reset.eng.keyed = false ∧ (freshZ.eng.keyed = true ∧ freshZ.eng.bvalid = false) ∧
    ((stateAt 16 true true 1).eng.keyed = true ∧ (stateAt 16 true true 1).eng.bvalid = true) := by decide
theorem witness_RstEqualsRstctr : freshZ.eng.keyed = true := by decide
theorem witness_ReservedOpcodesAreRefused :
    (encodeCommand .reserved0).op = 0#3 ∧ (encodeCommand .reserved6).op = 6#3 ∧ (encodeCommand .reserved7).op = 7#3 := by
  decide
/-- A command of each clause completes; PROC below the end of the block; a refused command of an unkeyed engine. -/
theorem witness_CommandFrames :
    (∃ t, exec (.init 1 2) State.reset = .next t) ∧ (∃ t, exec .rst (stateAt 3 true true 1) = .next t) ∧
    (∃ t, exec (.proc 9) (stateAt 15 true true 1) = .next t) ∧ (stateAt 15 true true 1).eng.cursor ≠ 16#5 ∧
    (∃ t, exec .rstcur (stateAt 3 true true 1) = .next t) ∧ (∃ t, exec .reserved6 State.reset = .next t) ∧
    (∃ t, exec .rstctr State.reset = .next t) ∧ State.reset.eng.keyed = false :=
  ⟨⟨_, rfl⟩, ⟨_, rfl⟩, ⟨_, rfl⟩, by decide, ⟨_, rfl⟩, ⟨_, rfl⟩, ⟨_, rfl⟩, rfl⟩
theorem witness_NoCommandSeeks :
    (∃ t, exec (.proc 9) (stateAt 16 true true 1) = .next t) ∧ (∃ t, exec .rstctr freshZ = .next t) :=
  ⟨⟨_, rfl⟩, ⟨_, rfl⟩⟩
theorem witness_OnlyHardwareResetForgetsTheKey :
    (freshZ.eng.keyed = true ∧ ∃ t, step { freshZ with inputs := [PortSample.offer (encodeCommand .rst)] } = .next t) ∧
    (State.reset.eng.keyed = false ∧
      (after (step { State.reset with inputs := [PortSample.offer (encodeCommand (.init 0 0))] })).eng.keyed = true) :=
  ⟨⟨rfl, _, rfl⟩, rfl, rfl⟩
theorem witness_ResetCommandsAreIdempotent :
    (∃ t, exec .rstctr freshZ = .next t) ∧ (∃ t, exec .rst freshZ = .next t) ∧
    (∃ t, exec .rstcur (stateAt 16 true true 1) = .next t) ∧ (∃ t, exec (.init 1 2) freshZ = .next t) :=
  ⟨⟨_, rfl⟩, ⟨_, rfl⟩, ⟨_, rfl⟩, ⟨_, rfl⟩⟩

/-- A keyed state with the invariants. -/
theorem witness_InvariantStatesNeverStop : freshZ.Inv where
  eng :=
    { cursor_le := by decide
      bvalid_keyed := by decide
      fresh := by decide
      constants := by decide
      block := fun h => absurd h (by decide)
      unkeyed := by decide }
  responses :=
    { refused_dout := by decide
      shown_last := by rintro r ⟨⟩; rfl }

/-- It is stepped to a next state. -/
theorem witness_EveryStepKeepsTheInvariant : freshZ.Inv ∧ ∃ t, step freshZ = .next t :=
  ⟨witness_InvariantStatesNeverStop, _, rfl⟩
theorem witness_KeyAndNonceStayUntilNextInit :
    (∃ t, exec (.init keyT nonceT) State.reset = .next t) ∧ freshT.eng.HoldsKey keyT nonceT ∧
    (∃ t, step { freshT with inputs := [PortSample.offer (encodeCommand .rst)] } = .next t) ∧
    (PortSample.offer (encodeCommand .rst)).rst = false ∧ (PortSample.offer (encodeCommand .rst)).cmd.op ≠ 1#3 :=
  ⟨⟨_, rfl⟩, ⟨by decide, by decide⟩, ⟨_, rfl⟩, by decide, by decide⟩

/-- An unkeyed state with the given unspecified words. -/
def unkeyedWith (b : Block) : State := { State.reset with eng := ⟨b, b, 16, false, false⟩, inputs := [PortSample.idle] }

theorem unkeyedWith_inv (b : Block) : (unkeyedWith b).Inv where
  eng := ⟨by simp [unkeyedWith], by simp [unkeyedWith], by simp [unkeyedWith], by simp [unkeyedWith], by simp [unkeyedWith],
    by simp [unkeyedWith]⟩
  responses := ⟨by simp [unkeyedWith, State.reset], by simp [unkeyedWith, State.reset]⟩

/-- Two states that differ in every unspecified word. -/
theorem witness_UnspecifiedWordsAreNeverObserved :
    (unkeyedWith (Vector.replicate 16 0)).Inv ∧ (unkeyedWith (Vector.replicate 16 1)).Inv ∧
    SameSpecified (unkeyedWith (Vector.replicate 16 0)) (unkeyedWith (Vector.replicate 16 1)) ∧
    ∃ t, step (unkeyedWith (Vector.replicate 16 0)) = .next t :=
  ⟨unkeyedWith_inv _, unkeyedWith_inv _, ⟨rfl, rfl, rfl, by simp [unkeyedWith], by simp [unkeyedWith], rfl, rfl, rfl⟩, _, rfl⟩
/-- Both ends of the cursor's range, and a buffer that crosses into a new block. -/
theorem witness_GenerationCountOfAProcRun :
    ([0, 0] : List Word) ≠ [] ∧ (stateAt 0 true true 1).eng.keyed = true ∧ (stateAt 0 true true 1).eng.cursor ≤ 16#5 ∧
    freshZ.eng.keyed = true ∧ freshZ.eng.cursor ≤ 16#5 := by decide
theorem witness_KeystreamHasItsClosedForm :
    (∃ t, exec (.init keyT nonceT) State.reset = .next t) ∧ freshT.eng.HoldsKey keyT nonceT ∧
    (∃ t, exec .rstctr freshT = .next t) ∧ (∃ t, exec .rst freshT = .next t) :=
  ⟨⟨_, rfl⟩, ⟨by decide, by decide⟩, ⟨_, rfl⟩, _, rfl⟩
theorem witness_ProcessIsAnInvolution : freshT.eng = freshT.eng ∧ freshT.eng.keyed = true ∧ freshT.eng.cursor ≤ 16#5 :=
  ⟨rfl, by decide, by decide⟩
/-- Both ends of the cursor's range, the lower one with a valid block. -/
theorem witness_SplittingABufferMakesNoDifference :
    ((stateAt 0 true true 1).eng.keyed = true ∧ (stateAt 0 true true 1).eng.cursor ≤ 16#5) ∧
    (freshT.eng.keyed = true ∧ freshT.eng.cursor = 16#5 ∧ freshT.eng.cursor ≤ 16#5) := by decide
theorem witness_RstcurReplaysTheCurrentBlock :
    (List.replicate 16 (0 : Word)) ≠ [] ∧ (List.replicate 16 (0 : Word)).length ≤ 16 ∧
    (freshZ.eng.keyed = true ∧ freshZ.eng.cursor = 16#5) ∧
    ((stateAt 0 true true 1).eng.keyed = true ∧ (stateAt 0 true true 1).eng.cursor = 0#5 ∧
      (stateAt 0 true true 1).eng.bvalid = true) := by decide

/-- A step without a response; a reset, an idle sample, another opcode and an unkeyed PROC; PROC at cursor 0, at 15 and at 16. -/
theorem witness_DoutPortShowsXorResultElseZero :
    let afterProc (s : State) : Host.Outcome State Fault Refusal :=
      step { s with inputs := [PortSample.offer (encodeCommand (.proc 5))] }
    (∃ t, step { freshZ with inputs := [PortSample.idle] } = .next t ∧ rspValid t = false) ∧
    (∃ t, step { freshZ with inputs := [PortSample.hwreset] } = .next t) ∧
    (∃ t, step { freshZ with inputs := [PortSample.offer (encodeCommand .reserved7)] } = .next t) ∧
    (∃ t, afterProc State.reset = .next t) ∧ (encodeCommand (.proc 5)).op = 2#3 ∧
    ((∃ t, afterProc (stateAt 0 true true 1) = .next t) ∧ (stateAt 0 true true 1).eng.cursor.toNat < 16) ∧
    ((∃ t, afterProc (stateAt 15 true true 1) = .next t) ∧ (stateAt 15 true true 1).eng.cursor.toNat < 16) ∧
    ((∃ t, afterProc freshZ = .next t) ∧ freshZ.eng.cursor = 16#5) :=
  ⟨⟨_, rfl, rfl⟩, ⟨_, rfl⟩, ⟨_, rfl⟩, ⟨_, rfl⟩, rfl, ⟨⟨_, rfl⟩, by decide⟩, ⟨⟨_, rfl⟩, by decide⟩, ⟨_, rfl⟩, rfl⟩

end Sys2Proof.Tests
end

section
/-!
PROOFS. The statements of 20_memory.md: the lanes of the key, nonce and counter ports (R43), and what the counter port shows (R54).
-/

namespace Sys2Proof.Machine

/-- A 32-bit lane of a port carries the port's bits `s` to `s + 31` in their order. -/
theorem getLsbD_wordLane {n : Nat} (x : BitVec n) (s : Nat) {j : Nat} (hj : j < 32) :
    (x.extractLsb' s 32).getLsbD j = x.getLsbD (s + j) := by
  simp [hj]

theorem leNat_cons (b : Byte) (bs : List Byte) : leNat (b :: bs) = 2 ^ 8 * leNat bs + b.toNat :=
  Nat.add_comm _ _

/-- Byte `j` of a byte string is bits `8j` to `8j + 7` of the integer it is read as. -/
theorem testBit_leNat (bytes : List Byte) (j : Nat) (h : j < bytes.length) (i : Nat) (hi : i < 8) :
    (leNat bytes).testBit (8 * j + i) = bytes[j].getLsbD i := by
  induction bytes generalizing j with
  | nil => cases h
  | cons b bs ih =>
    rw [leNat_cons, Nat.testBit_two_pow_mul_add _ b.isLt]
    cases j with
    | zero => simp [hi, BitVec.testBit_toNat]
    | succ j =>
      have hge : ¬ 8 * (j + 1) + i < 8 := by omega
      have hsub : 8 * (j + 1) + i - 8 = 8 * j + i := by omega
      rw [if_neg hge, hsub]
      exact ih j (Nat.lt_of_succ_lt_succ h)

/-- Byte `j` of a byte string is byte lane `j` of a port of any width that holds it. -/
theorem extractLsb'_ofNat_leNat {w : Nat} (bytes : List Byte) (j : Nat) (h : j < bytes.length) (hw : 8 * bytes.length ≤ w) :
    (BitVec.ofNat w (leNat bytes)).extractLsb' (8 * j) 8 = bytes[j] := by
  apply BitVec.eq_of_getLsbD_eq
  intro i hi
  have hlt : 8 * j + i < w := by omega
  rw [BitVec.getLsbD_extractLsb', BitVec.getLsbD_ofNat, testBit_leNat bytes j h i hi]
  simp [hi, hlt]

theorem ctrPort_keyed {s : State} (h : s.eng.keyed = true) : ctrPort s = some (ctrOf s.eng.S) := by
  simp [ctrPort, h]

theorem ctrPort_unkeyed {s : State} (h : s.eng.keyed = false) : ctrPort s = none := by
  simp [ctrPort, h]

end Sys2Proof.Machine

namespace Sys2Proof
open Machine

/-- Settles O17: a word lane shows the port's bits, the counter is the concatenation of its two words, and a byte lane shows the
bits of the integer the byte string is read as, by induction on the string. -/
theorem portLanesAreLittleEndian : Obligations.PortLanesAreLittleEndian := by
  unfold Obligations.PortLanesAreLittleEndian
  refine ⟨?key, ?nonce, ?counter, ?keyBytes, ?nonceBytes⟩
  case key => exact fun key i _ _ hj => getLsbD_wordLane key (32 * i) hj
  case nonce => exact fun nonce i _ _ hj => getLsbD_wordLane nonce (32 * i) hj
  case counter => exact fun s => ⟨ctrLow_append s[9] s[8], ctrHigh_append s[9] s[8]⟩
  case keyBytes => exact fun bytes hl j h => extractLsb'_ofNat_leNat bytes j h (by omega)
  case nonceBytes => exact fun bytes hl j h => extractLsb'_ofNat_leNat bytes j h (by omega)

/-- Settles O32: the port's two cases, by the `keyed` flag. -/
theorem counterPortShowsWordsNineAndEight : Obligations.CounterPortShowsWordsNineAndEight := by
  unfold Obligations.CounterPortShowsWordsNineAndEight
  exact fun _ => ⟨ctrPort_keyed, ctrPort_unkeyed⟩

end Sys2Proof
end

section
/-!
PROOFS. The statements of 30_encoding.md: the pseudo-commands of the script notation (R67).
-/

namespace Sys2Proof.Machine

/-- A line that drives `ps` drives them before what the rest of the script drives. -/
theorem scriptSamples_cons_ok {l : ScriptLine} {ls : List ScriptLine} {ps qs : List PortSample}
    (hl : l.samples = .ok ps) (hls : scriptSamples ls = .ok qs) : scriptSamples (l :: ls) = .ok (ps ++ qs) := by
  simp [scriptSamples, hl, hls]

/-- R67: a script of PROC lines is in no error and drives its words' samples in order. -/
theorem scriptSamples_map_proc (ws : List Word) : scriptSamples (ws.map .proc) = .ok (procSamples ws) := by
  induction ws with
  | nil => rfl
  | cons w ws ih =>
    have hline : (ScriptLine.proc w).samples = .ok (procSamples [w]) := rfl
    rw [List.map_cons, scriptSamples_cons_ok hline ih, ← procSamples_append, List.singleton_append]

/-- R67: `KS n` is `PROCBUF` on `n` zero words. -/
theorem samples_ks (n : Nat) : (ScriptLine.ks n).samples = (ScriptLine.procbuf (List.replicate n 0#32)).samples := rfl

/-- R67: `PROCBUF` drives what the PROC lines of its words drive. -/
theorem samples_procbuf (ws : List Word) : (ScriptLine.procbuf ws).samples = scriptSamples (ws.map .proc) :=
  (scriptSamples_map_proc ws).symm

end Sys2Proof.Machine

namespace Sys2Proof
open Machine

/-- Settles O21: `PROCBUF` is the script of its PROC lines, by induction on the words; `KS n` is `PROCBUF` on `n` zero words, and
`ENCRYPT` and `DECRYPT` drive what `PROCBUF` drives by definition. -/
theorem pseudoCommandsExpandToProc : Obligations.PseudoCommandsExpandToProc := by
  unfold Obligations.PseudoCommandsExpandToProc
  refine ⟨?ks, ?ksTimes, samples_procbuf, ?sameCommand⟩
  case ks => rfl
  case ksTimes => exact fun n => by rw [samples_ks, samples_procbuf, List.map_replicate]
  case sameCommand => exact fun _ => ⟨rfl, rfl⟩

end Sys2Proof
end

section
/-!
PROOFS. The statements of 40_permutation.md: the word operations (R81, R83, R90), the quarter-round in place (R84), and the two
rounds as four quarter-rounds at once (R85, R86).
-/

namespace Sys2Proof.Machine

/-- R81: the carry out of bit 31 is dropped. -/
theorem toNat_add32 (a b : Word) : (add32 a b).toNat = (a.toNat + b.toNat) % 2 ^ 32 :=
  BitVec.toNat_add a b

@[simp] theorem add32_zero (a : Word) : add32 a 0#32 = a := BitVec.add_zero a

@[simp] theorem xor32_zero (a : Word) : xor32 a 0#32 = a := BitVec.xor_zero

@[simp] theorem xor32_self (a : Word) : xor32 a a = 0#32 := BitVec.xor_self

/-- R83: the second of two exclusive ors with one word takes the first back. -/
@[simp] theorem xor32_xor32_cancel (a b : Word) : xor32 (xor32 a b) b = a := by
  rw [xor32, xor32, BitVec.xor_assoc, BitVec.xor_self, BitVec.xor_zero]

theorem getLsbD_xor32 (a b : Word) (i : Nat) : (xor32 a b).getLsbD i = true ↔ a.getLsbD i ≠ b.getLsbD i := by
  rw [xor32, BitVec.getLsbD_xor, bne_iff_ne]

@[simp] theorem rotl32_zero (n : Nat) : rotl32 0#32 n = 0#32 := by
  simp [rotl32, BitVec.rotateLeft_def]

@[simp] theorem quarterRound_zero : quarterRound 0#32 0#32 0#32 0#32 = (0#32, 0#32, 0#32, 0#32) := by
  simp [quarterRound]

/-- R84: the four steps of the quarter-round in their order, on the operators of the words. -/
theorem quarterRound_steps {a0 b0 c0 d0 a1 b1 c1 d1 : Word} (h : quarterRound a0 b0 c0 d0 = (a1, b1, c1, d1)) :
    b1 = b0 ^^^ (a0 + d0).rotateLeft 7 ∧ c1 = c0 ^^^ (b1 + a0).rotateLeft 9 ∧
      d1 = d0 ^^^ (c1 + b1).rotateLeft 13 ∧ a1 = a0 ^^^ (d1 + c1).rotateLeft 18 := by
  cases h
  exact ⟨rfl, rfl, rfl, rfl⟩

theorem getElem_set_fin_self (x : Block) (i : Fin 16) (w : Word) : (x.set i w)[i] = w :=
  Vector.getElem_set_self i.isLt

theorem getElem_set_fin_ne (x : Block) {i j : Fin 16} (w : Word) (h : i ≠ j) : (x.set i w)[j] = x[j] :=
  Vector.getElem_set_ne i.isLt j.isLt (Fin.val_ne_of_ne h)

/-- R84: the quarter-round in place writes no word but the four it names. -/
theorem qr_other (x : Block) {a b c d j : Fin 16} (ha : j ≠ a) (hb : j ≠ b) (hc : j ≠ c) (hd : j ≠ d) :
    (qr x a b c d)[j] = x[j] := by
  simp only [qr, getElem_set_fin_ne, ne_eq, ha.symm, hb.symm, hc.symm, hd.symm, not_false_eq_true]

/-- R84: what the quarter-round in place leaves at four distinct positions: each read of a step meets the latest write there. -/
theorem qr_words (x : Block) {a b c d : Fin 16} (hab : a ≠ b) (hac : a ≠ c) (had : a ≠ d) (hbc : b ≠ c) (hbd : b ≠ d)
    (hcd : c ≠ d) :
    ((qr x a b c d)[a], (qr x a b c d)[b], (qr x a b c d)[c], (qr x a b c d)[d]) =
      quarterRound x[a] x[b] x[c] x[d] := by
  simp only [qr, quarterRound, getElem_set_fin_self, getElem_set_fin_ne, ne_eq, hab, hac, had, hbc, hbd, hcd,
    eq_comm, not_false_eq_true]

/-- The four positions of one quarter-round, in the order of `QR`'s arguments (R84). -/
structure Quad where
  a : Fin 16
  b : Fin 16
  c : Fin 16
  d : Fin 16

def Quad.positions (q : Quad) : List (Fin 16) := [q.a, q.b, q.c, q.d]

/-- The four words a buffer holds at the positions. -/
def Quad.words (q : Quad) (x : Block) : Word × Word × Word × Word := (x[q.a], x[q.b], x[q.c], x[q.d])

/-- `QR` in place on the positions (R84). -/
def Quad.qr (q : Quad) (x : Block) : Block := Machine.qr x q.a q.b q.c q.d

/-- Quarter-rounds in place, one after the other: the shape of both rounds (R85, R86). -/
def qrs : List Quad → Block → Block
  | [], x => x
  | q :: qs, x => qrs qs (q.qr x)

/-- The pure quarter-round of four words given together. -/
def quarterRoundOf : Word × Word × Word × Word → Word × Word × Word × Word
  | (a, b, c, d) => quarterRound a b c d

theorem Quad.words_congr {q : Quad} {x y : Block} (h : ∀ j ∈ q.positions, y[j] = x[j]) : q.words y = q.words x := by
  simp only [positions, List.forall_mem_cons] at h
  obtain ⟨ha, hb, hc, hd, -⟩ := h
  simp only [words, ha, hb, hc, hd]

theorem Quad.qr_other {q : Quad} {j : Fin 16} (h : j ∉ q.positions) (x : Block) : (q.qr x)[j] = x[j] := by
  simp only [positions, List.mem_cons, not_or] at h
  obtain ⟨ha, hb, hc, hd, -⟩ := h
  exact Machine.qr_other x ha hb hc hd

theorem Quad.words_qr {q : Quad} (h : q.positions.Nodup) (x : Block) : q.words (q.qr x) = quarterRoundOf (q.words x) := by
  simp only [positions, List.nodup_cons, List.mem_cons, not_or] at h
  obtain ⟨⟨hab, hac, had, -⟩, ⟨hbc, hbd, -⟩, ⟨hcd, -⟩, -⟩ := h
  exact Machine.qr_words x hab hac had hbc hbd hcd

theorem qrs_other {qs : List Quad} {j : Fin 16} (h : j ∉ qs.flatMap Quad.positions) (x : Block) :
    (qrs qs x)[j] = x[j] := by
  induction qs generalizing x with
  | nil => rfl
  | cons q qs ih =>
    rw [List.flatMap_cons, List.mem_append, not_or] at h
    obtain ⟨hq, hqs⟩ := h
    exact (ih hqs (q.qr x)).trans (Quad.qr_other hq x)

/-- Quarter-rounds on disjoint positions, taken one after the other, each leave what the pure quarter-round makes of the words as
they were before the first: the earlier ones have not written those words, the later ones do not write them again. -/
theorem words_qrs {qs : List Quad} (h : (qs.flatMap Quad.positions).Nodup) (x : Block) :
    ∀ q ∈ qs, q.words (qrs qs x) = quarterRoundOf (q.words x) := by
  induction qs generalizing x with
  | nil => exact List.forall_mem_nil _
  | cons p ps ih =>
    rw [List.flatMap_cons, List.nodup_append'] at h
    obtain ⟨hp, hps, hdisjoint⟩ := h
    refine List.forall_mem_cons.mpr ⟨?first, fun q hq => ?later⟩
    case first =>
      have hkept : p.words (qrs ps (p.qr x)) = p.words (p.qr x) :=
        Quad.words_congr fun j hj => qrs_other (hdisjoint hj) (p.qr x)
      exact hkept.trans (Quad.words_qr hp x)
    case later =>
      have hbefore : q.words (p.qr x) = q.words x :=
        Quad.words_congr fun j hj => Quad.qr_other (hdisjoint · (List.mem_flatMap_of_mem hq hj)) x
      rw [← hbefore]
      exact ih hps (p.qr x) q hq

/-- The same for the four quarter-rounds of a round, one equation for each. -/
theorem words_qrs_four {p q r s : Quad} (h : ([p, q, r, s].flatMap Quad.positions).Nodup) (x : Block) :
    p.words (qrs [p, q, r, s] x) = quarterRoundOf (p.words x) ∧ q.words (qrs [p, q, r, s] x) = quarterRoundOf (q.words x) ∧
      r.words (qrs [p, q, r, s] x) = quarterRoundOf (r.words x) ∧ s.words (qrs [p, q, r, s] x) = quarterRoundOf (s.words x) := by
  have hwords := words_qrs h x
  simp only [List.forall_mem_cons] at hwords
  obtain ⟨hp, hq, hr, hs, -⟩ := hwords
  exact ⟨hp, hq, hr, hs⟩

/-- The columns, each from its diagonal down (R85). -/
def columns : List Quad := [⟨0, 4, 8, 12⟩, ⟨5, 9, 13, 1⟩, ⟨10, 14, 2, 6⟩, ⟨15, 3, 7, 11⟩]

/-- The rows, each from its diagonal to the right (R86). -/
def rows : List Quad := [⟨0, 1, 2, 3⟩, ⟨5, 6, 7, 4⟩, ⟨10, 11, 8, 9⟩, ⟨15, 12, 13, 14⟩]

theorem columnRound_eq_qrs (x : Block) : columnRound x = qrs columns x := rfl

theorem rowRound_eq_qrs (x : Block) : rowRound x = qrs rows x := rfl

/-- R85: the columns share no position. -/
theorem columns_nodup : (columns.flatMap Quad.positions).Nodup := by decide

/-- R86: the rows share no position. -/
theorem rows_nodup : (rows.flatMap Quad.positions).Nodup := by decide

end Sys2Proof.Machine

namespace Sys2Proof
open Machine

/-- Settles O4: the in-place form by its rules for the four positions and for every other one, the four steps as the pure form
takes them; the fixed point and the example. -/
theorem quarterRoundWritesItsFourPositions : Obligations.QuarterRoundWritesItsFourPositions := by
  unfold Obligations.QuarterRoundWritesItsFourPositions
  refine ⟨?inPlace, ?steps, quarterRound_zero, ?unitA⟩
  case inPlace =>
    exact fun x a b c d hab hac had hbc hbd hcd =>
      ⟨qr_words x hab hac had hbc hbd hcd, fun j ha hb hc hd => qr_other x ha hb hc hd⟩
  case steps => exact fun _ _ _ _ _ _ _ _ => quarterRound_steps
  case unitA => decide

/-- Settles O6: the column round is quarter-rounds on disjoint positions; the example is computed. -/
theorem columnRoundIsFourQuarterRoundsAtOnce : Obligations.ColumnRoundIsFourQuarterRoundsAtOnce := by
  unfold Obligations.ColumnRoundIsFourQuarterRoundsAtOnce
  refine ⟨?columns, by decide⟩
  case columns =>
    rintro x _ rfl
    rw [columnRound_eq_qrs]
    exact words_qrs_four columns_nodup x

/-- Settles O7: the row round is quarter-rounds on disjoint positions; the example is computed. -/
theorem rowRoundIsFourQuarterRoundsAtOnce : Obligations.RowRoundIsFourQuarterRoundsAtOnce := by
  unfold Obligations.RowRoundIsFourQuarterRoundsAtOnce
  refine ⟨?rows, by decide⟩
  case rows =>
    rintro x _ rfl
    rw [rowRound_eq_qrs]
    exact words_qrs_four rows_nodup x

/-- Settles O1: the sum by its rule, adding 0 by its own; the four corner cases and examples are computed. -/
theorem add32IsTheSumModTwoPow32 : Obligations.Add32IsTheSumModTwoPow32 := by
  unfold Obligations.Add32IsTheSumModTwoPow32
  exact ⟨toNat_add32, add32_zero, by decide⟩

/-- Settles O3: the bits by their rule, then the self-inverse laws; the example is computed. -/
theorem xorIsBitwiseAndSelfInverse : Obligations.XorIsBitwiseAndSelfInverse := by
  unfold Obligations.XorIsBitwiseAndSelfInverse
  exact ⟨fun a b i _ => getLsbD_xor32 a b i, xor32_zero, xor32_self, xor32_xor32_cancel, by decide⟩

/-- Settles O10: each operation of the quarter-round keeps zero words zero. -/
theorem quarterRoundZeroCheck : Obligations.QuarterRoundZeroCheck := by
  unfold Obligations.QuarterRoundZeroCheck
  exact ⟨add32_zero 0#32, fun n _ _ => rotl32_zero n, xor32_zero 0#32, quarterRound_zero⟩

end Sys2Proof
end

section
/-!
PROOFS. The statements of 41_block_generator.md: the counter increment (R102, R103) and `GenerateBlock` (R104).
-/

namespace Sys2Proof.Machine

theorem toNat_append_word (h l : Word) : (h ++ l).toNat = h.toNat * 2 ^ 32 + l.toNat := by
  rw [BitVec.toNat_append, ← Nat.shiftLeft_add_eq_or_of_lt l.isLt, Nat.shiftLeft_eq]

/-- R102: 1 added to a number held in two words carries into the high word exactly when the low word becomes 0. -/
theorem append_add_one (h l : Word) :
    (h ++ l : BitVec 64) + 1 = (if l + 1#32 = 0#32 then h + 1#32 else h) ++ (l + 1#32) := by
  have hh := h.isLt
  have hl := l.isLt
  have hcarry : l + 1#32 = 0#32 ↔ (l.toNat + 1) % 2 ^ 32 = 0 := by
    rw [← BitVec.toNat_inj, BitVec.toNat_add]
    rfl
  apply BitVec.eq_of_toNat_eq
  simp only [BitVec.toNat_add, toNat_append_word, apply_ite BitVec.toNat, hcarry, BitVec.toNat_ofNat, BitVec.ofNat_eq_ofNat]
  split <;> omega

/-- R102: the low word of the counter always counts. -/
theorem ctrInc_low (s : Block) : (ctrInc s)[8] = s[8] + 1#32 := by
  rw [ctrInc, withCtr_low, ctrOf, append_add_one, ctrLow_append]

/-- R102: the high word counts exactly when the low word becomes 0. -/
theorem ctrInc_high (s : Block) : (ctrInc s)[9] = if s[8] + 1#32 = 0#32 then s[9] + 1#32 else s[9] := by
  rw [ctrInc, withCtr_high, ctrOf, append_add_one, ctrHigh_append]

/-- R102: the increment writes words 8 and 9 only. -/
theorem ctrInc_other (s : Block) {j : Fin 16} (h8 : j ≠ 8) (h9 : j ≠ 9) : (ctrInc s)[j] = s[j] :=
  withCtr_other s (ctrOf s + 1) j j.isLt (Fin.val_ne_of_ne h8) (Fin.val_ne_of_ne h9)

/-- R103: the increment of the last counter value leaves the array of counter 0. -/
theorem ctrInc_wraps {s : Block} (h8 : s[8] = 0xffffffff#32) (h9 : s[9] = 0xffffffff#32) : ctrInc s = withCtr s 0#64 := by
  rw [ctrInc, ctrOf, h8, h9]
  rfl

/-- PROC on a keyed engine whose block is used up: answered OK, and but for the cursor the engine is the one `GenerateBlock`
leaves (R122). -/
theorem execProc_exhausted {s : State} (din : Word) (hk : s.eng.keyed = true) (hc : s.eng.cursor = 16#5) :
    ∃ t, exec (.proc din) s = .next t ∧ t.rsp.map Response.status = some Status.ok ∧
      t.eng = advanceCursor (generateBlock s.eng) := by
  refine ⟨_, execProc_next din hk (BitVec.le_of_eq hc), rfl, ?_⟩
  rw [respond_eng, readyBlock_exhausted hc]

/-- The example of R101: the block of counter 0 under the all-zero key and nonce. -/
theorem keystreamBlock_zero :
    keystreamBlock 0#256 0#64 0#64 =
      #v[0x5bf6979a, 0x1b724c9b, 0x21670a96, 0xd4a8fc45, 0xf9672ee3, 0x79a91e11, 0x26489cce, 0xe6ee6a80,
         0xdac0e93d, 0x1ef9d72b, 0x9b63b2bc, 0x25c689f9, 0x38bf291b, 0xdc9b9ad3, 0x4b5fc5e7, 0x392ac12a] := by
  decide +kernel

end Sys2Proof.Machine

namespace Sys2Proof
open Machine

/-- Settles O13: the counter by the rule of its 64-bit value, the words by the rules of the carry; each corner case is the word
rules at its values. -/
theorem ctrIncAddsOneModTwoPow64 : Obligations.CtrIncAddsOneModTwoPow64 := by
  unfold Obligations.CtrIncAddsOneModTwoPow64
  refine ⟨?counter, fun s => ⟨ctrInc_low s, ctrInc_high s⟩, fun s _ h8 h9 => ctrInc_other s h8 h9, ?carry, ?last, ?zero⟩
  case counter =>
    intro s
    rw [ctrOf_ctrInc, BitVec.toNat_add]
    rfl
  case carry =>
    intro s h8 h9
    rw [ctrInc_low, ctrInc_high, h8, h9]
    decide
  case last =>
    intro s h8
    rw [ctrInc_low, ctrInc_high, h8]
    exact ⟨by decide, if_neg (by decide)⟩
  case zero =>
    intro s h8 h9
    rw [ctrInc_low, ctrInc_high, h8, h9]
    decide

/-- Settles O14: the increment of the last counter value leaves the array of counter 0, and so does a PROC that generates that
value's block; counter values equal modulo 2^64 are one 64-bit value. -/
theorem counterWrapsSilently : Obligations.CounterWrapsSilently := by
  unfold Obligations.CounterWrapsSilently
  refine ⟨?words, ?proc, ?period⟩
  case words =>
    intro s h8 h9
    rw [ctrInc_wraps h8 h9, withCtr_low, withCtr_high]
    decide
  case proc =>
    intro s din hk hc h8 h9
    obtain ⟨t, ht, hok, heng⟩ := execProc_exhausted din hk hc
    have hS : t.eng.S = withCtr s.eng.S 0#64 := by
      rw [heng, advanceCursor_S, generateBlock_S, ctrInc_wraps h8 h9]
    refine ⟨t, ht, hok, ?_, ?_, ?_, ?_⟩
    · rw [hS, ctrOf_withCtr]
    · rw [heng, advanceCursor_keyed, generateBlock_keyed, hk]
    · rw [heng, advanceCursor_bvalid, generateBlock_bvalid]
    · rw [generateBlock_B, hS]
  case period =>
    intro key nonce c d h
    have hcd : BitVec.ofNat 64 c = BitVec.ofNat 64 d :=
      BitVec.eq_of_toNat_eq (by rw [BitVec.toNat_ofNat, BitVec.toNat_ofNat, h])
    rw [hcd]

/-- Settles O15: the fields `GenerateBlock` leaves, with the rules of the increment for its State array; the example's block is the
first keystream block of the all-zero key and nonce. -/
theorem generateBlockMakesBlockOfOldCounter : Obligations.GenerateBlockMakesBlockOfOldCounter := by
  unfold Obligations.GenerateBlockMakesBlockOfOldCounter
  refine ⟨fun e => ⟨generateBlock_B e, ctrOf_ctrInc e.S, fun _ h8 h9 => ctrInc_other e.S h8 h9, generateBlock_cursor e,
    generateBlock_bvalid e, generateBlock_keyed e⟩, fun b => ⟨keystreamBlock_zero, ?counterOne⟩⟩
  case counterOne =>
    rw [generateBlock_S, freshEngine_S, ctrOf_ctrInc, ctrOf_stateArray]
    decide

end Sys2Proof
end

section
/-!
PROOFS. The statements of 42_commands.md: the checks before a command (R120), INIT (R121), PROC (R122) and the reserved opcodes (R126).
-/

namespace Sys2Proof.Machine

/-- R65: the decoded command is the one of the record's opcode. -/
theorem op_decodeCommand (c : Command) : (decodeCommand c).op = c.op := by
  have hops : ∀ op : BitVec 3, op = 0 ∨ op = 1 ∨ op = 2 ∨ op = 3 ∨ op = 4 ∨ op = 5 ∨ op = 6 ∨ op = 7 := by decide
  obtain h | h | h | h | h | h | h | h := hops c.op <;> simp [decodeCommand, Instr.op, h]

section Arms
variable (s : State)

theorem exec_init (key : BitVec 256) (nonce : BitVec 64) :
    exec (.init key nonce) s =
      .next (complete (freshEngine key nonce (Config.freeBlock s.draws)) { s with draws := s.draws + 16 }) := rfl

theorem exec_proc (din : Word) : exec (.proc din) s = guarded (keyedCheck s.eng) s (consumeWord din s) := rfl

theorem exec_rstctr :
    exec .rstctr s = guarded (keyedCheck s.eng) s (.next (complete (restartKeystream s.eng) s)) := rfl

theorem exec_rstcur :
    exec .rstcur s = guarded (blockCheck s.eng) s (.next (complete (rewindCursor s.eng) s)) := rfl

theorem exec_rst :
    exec .rst s = guarded (keyedCheck s.eng) s (.next (complete (rewindCursor (restartKeystream s.eng)) s)) := rfl

end Arms

/-- R126: an opcode that is none of the five defined ones is refused whatever the state. -/
theorem exec_reserved {i : Instr} (hi : i.op ∉ [1#3, 2#3, 3#3, 4#3, 5#3]) (s : State) :
    exec i s = .next (refuse .errIllegalOp s) := by
  cases i with
  | init | proc | rstctr | rstcur | rst => simp [Instr.op] at hi
  | reserved0 | reserved6 | reserved7 => rfl

/-- R120: while unkeyed every defined command but INIT is refused. -/
theorem exec_unkeyed {i : Instr} {s : State} (hi : i.op ∈ [2#3, 3#3, 4#3, 5#3]) (hk : s.eng.keyed = false) :
    exec i s = .next (refuse .errNotKeyed s) := by
  cases i with
  | init | reserved0 | reserved6 | reserved7 => simp [Instr.op] at hi
  | proc din => rw [exec_proc, keyedCheck_unkeyed hk, guarded_some]
  | rstctr => rw [exec_rstctr, keyedCheck_unkeyed hk, guarded_some]
  | rstcur => rw [exec_rstcur, blockCheck_unkeyed hk, guarded_some]
  | rst => rw [exec_rst, keyedCheck_unkeyed hk, guarded_some]

theorem eq_rstcur_of_op {i : Instr} (hi : i.op = 4#3) : i = .rstcur := by
  cases i <;> simp_all [Instr.op]

/-- R120: RSTCUR on a keyed engine without a block. -/
theorem exec_rstcur_noBlock {s : State} (hk : s.eng.keyed = true) (hb : s.eng.bvalid = false) :
    exec .rstcur s = .next (refuse .errNoBlock s) := by
  rw [exec_rstcur, blockCheck_noBlock hk hb, guarded_some]

/-- R120: a defined command that passes its checks completes with status OK. -/
theorem exec_completes {i : Instr} {s : State} (hi : i.op ∈ [1#3, 2#3, 3#3, 4#3, 5#3])
    (hk : i.op ≠ 1#3 → s.eng.keyed = true) (hb : i.op = 4#3 → s.eng.bvalid = true) (hc : s.eng.cursor ≤ 16#5) :
    ∃ t, exec i s = .next t ∧ t.rsp.map Response.status = some Status.ok := by
  cases i with
  | reserved0 | reserved6 | reserved7 => simp [Instr.op] at hi
  | init key nonce => exact ⟨_, exec_init s key nonce, rfl⟩
  | proc din => exact ⟨_, execProc_next din (hk (by simp [Instr.op])) hc, rfl⟩
  | rstctr => exact ⟨_, by rw [exec_rstctr, keyedCheck_keyed (hk (by decide)), guarded_none], rfl⟩
  | rstcur => exact ⟨_, by rw [exec_rstcur, blockCheck_valid (hk (by decide)) (hb rfl), guarded_none], rfl⟩
  | rst => exact ⟨_, by rw [exec_rst, keyedCheck_keyed (hk (by decide)), guarded_none], rfl⟩

/-- PROC on a keyed engine with words of its block left (R122). -/
theorem execProc_within_next {s : State} (din : Word) (hk : s.eng.keyed = true) (hc : s.eng.cursor.toNat < 16) :
    exec (.proc din) s = .next (respond .ok (xor32 din s.eng.B[s.eng.cursor.toNat])
      { s with eng := advanceCursor s.eng }) := by
  have hne : s.eng.cursor ≠ 16 := fun h => by simp [h] at hc
  have hle : s.eng.cursor ≤ 16 := Nat.le_of_lt hc
  simp [execProc_next din hk hle, readyBlock_not_exhausted hne]

/-- PROC on a keyed engine whose block is used up: the word is word 0 of the block it generates (R122). -/
theorem execProc_exhausted_next {s : State} (din : Word) (hk : s.eng.keyed = true) (hc : s.eng.cursor = 16#5) :
    exec (.proc din) s = .next (respond .ok (xor32 din (salsa20Block s.eng.S)[0])
      { s with eng := advanceCursor (generateBlock s.eng) }) := by
  simp [execProc_next din hk (BitVec.le_of_eq hc), readyBlock_exhausted hc]

section StateArray
variable (key : BitVec 256) (nonce c : BitVec 64)

/-- The constants in the State array (R22, R23). -/
theorem stateArray_constants :
    (stateArray key nonce c)[0] = 0x61707865#32 ∧ (stateArray key nonce c)[5] = 0x3320646e#32 ∧
      (stateArray key nonce c)[10] = 0x79622d32#32 ∧ (stateArray key nonce c)[15] = 0x6b206574#32 :=
  ⟨rfl, rfl, rfl, rfl⟩

/-- The key words in the State array (R22, R43). -/
theorem stateArray_key :
    (stateArray key nonce c)[1] = key.extractLsb' 0 32 ∧ (stateArray key nonce c)[2] = key.extractLsb' 32 32 ∧
      (stateArray key nonce c)[3] = key.extractLsb' 64 32 ∧ (stateArray key nonce c)[4] = key.extractLsb' 96 32 ∧
      (stateArray key nonce c)[11] = key.extractLsb' 128 32 ∧ (stateArray key nonce c)[12] = key.extractLsb' 160 32 ∧
      (stateArray key nonce c)[13] = key.extractLsb' 192 32 ∧ (stateArray key nonce c)[14] = key.extractLsb' 224 32 :=
  ⟨rfl, rfl, rfl, rfl, rfl, rfl, rfl, rfl⟩

/-- The nonce words in the State array (R22, R43). -/
theorem stateArray_nonce :
    (stateArray key nonce c)[6] = nonce.extractLsb' 0 32 ∧ (stateArray key nonce c)[7] = nonce.extractLsb' 32 32 :=
  ⟨rfl, rfl⟩

/-- The counter words in the State array (R22, R43). -/
theorem stateArray_counter : (stateArray key nonce c)[8] = ctrLow c ∧ (stateArray key nonce c)[9] = ctrHigh c :=
  ⟨rfl, rfl⟩

end StateArray

end Sys2Proof.Machine

namespace Sys2Proof
open Machine

/-- Settles O33: the checks look at the opcode alone, which decoding keeps, so each clause is the rule of the decoded command. -/
theorem commandChecksInOrder : Obligations.CommandChecksInOrder := by
  unfold Obligations.CommandChecksInOrder
  intro c s
  rw [← op_decodeCommand c]
  refine ⟨fun hi => exec_reserved hi s, exec_unkeyed, ?noBlock, exec_completes, fun st => refuse_eng st s⟩
  case noBlock =>
    intro hi hk hb
    rw [eq_rstcur_of_op hi, exec_rstcur_noBlock hk hb]

/-- Settles O37: each case of PROC by its rule; the example is the used-up case on the fresh engine of the all-zero operands, whose
first block is known. -/
theorem procXorsTheNextKeystreamWord : Obligations.ProcXorsTheNextKeystreamWord := by
  unfold Obligations.ProcXorsTheNextKeystreamWord
  refine fun din s => ⟨exec_unkeyed (by simp [Instr.op]), ?within, ?exhausted, ?firstWord⟩
  case within =>
    intro hc hk
    have hcursor : (s.eng.cursor + 1).toNat = s.eng.cursor.toNat + 1 :=
      BitVec.toNat_add_of_lt (show s.eng.cursor.toNat + 1 < 2 ^ 5 by omega)
    exact ⟨_, execProc_within_next din hk hc, rfl, rfl, hcursor, rfl, rfl, hk, rfl, rfl, rfl⟩
  case exhausted =>
    intro hc hk
    exact ⟨_, execProc_exhausted_next din hk hc, rfl, rfl, rfl, rfl, ctrOf_ctrInc s.eng.S,
      fun j h8 h9 => ctrInc_other s.eng.S h8 h9, hk, rfl, rfl, rfl⟩
  case firstWord =>
    intro t ht
    rw [exec_init] at ht
    cases ht
    have hword : xor32 0#32 (salsa20Block (stateArray 0#256 0#64 0#64))[0] = 0x5bf6979a#32 := by
      rw [← keystreamBlock, keystreamBlock_zero]
      decide
    have hctr : ctrOf (ctrInc (stateArray 0#256 0#64 0#64)) = 1#64 := by
      rw [ctrOf_ctrInc, ctrOf_stateArray]
      rfl
    refine ⟨_, execProc_exhausted_next 0#32 rfl rfl, ?_, rfl, hctr⟩
    rw [respond_rsp, complete_eng, freshEngine_S]
    exact congrArg (fun w => some (Response.mk .ok w)) hword

/-- Settles O36: the State array word by word; the second INIT is the first one's rule again. -/
theorem initConstructsAFreshEngine : Obligations.InitConstructsAFreshEngine := by
  unfold Obligations.InitConstructsAFreshEngine
  refine ⟨fun key nonce s => ?fresh, fun s => ⟨_, exec_init s _ _, ?words⟩⟩
  case fresh =>
    obtain ⟨h0, h5, h10, h15⟩ := stateArray_constants key nonce 0
    obtain ⟨h1, h2, h3, h4, h11, h12, h13, h14⟩ := stateArray_key key nonce 0
    obtain ⟨h6, h7⟩ := stateArray_nonce key nonce 0
    obtain ⟨h8, h9⟩ := stateArray_counter key nonce 0
    exact ⟨_, exec_init s key nonce, h0, h5, h10, h15, h1, h2, h3, h4, h11, h12, h13, h14, h6, h7, h8, h9,
      rfl, rfl, rfl, rfl, rfl, rfl, _, exec_init _ key nonce, rfl, rfl, rfl, rfl, rfl⟩
  case words =>
    rw [complete_eng, freshEngine_S]
    decide

/-- Settles O42: the three opcodes are none of the five defined ones, and a refusal writes no field but the response. -/
theorem reservedOpcodesAreRefused : Obligations.ReservedOpcodesAreRefused := by
  unfold Obligations.ReservedOpcodesAreRefused
  refine ⟨?records, ?commands⟩
  case records =>
    intro c s hop
    have hnot : ∀ op : BitVec 3, op = 0#3 ∨ op = 6#3 ∨ op = 7#3 → op ∉ [1#3, 2#3, 3#3, 4#3, 5#3] := by decide
    have hi : (decodeCommand c).op ∉ [1#3, 2#3, 3#3, 4#3, 5#3] := by
      rw [op_decodeCommand]
      exact hnot c.op hop
    exact ⟨_, exec_reserved hi s, rfl, rfl, rfl, rfl, rfl⟩
  case commands =>
    rintro i s (rfl | rfl | rfl) <;> exact exec_reserved (by decide) s

end Sys2Proof
end

section
/-!
PROOFS. The statements of 60_exceptions.md: which refusal each command raises (R141), and that a refusal leaves no trace (R144).
-/

namespace Sys2Proof.Machine

/-! ## Which status a command answers -/

theorem keyedCheck_eq_some_iff {e : Engine} {st : Status} :
    keyedCheck e = some st ↔ e.keyed = false ∧ st = .errNotKeyed := by
  cases hk : e.keyed with
  | false => simp [keyedCheck_unkeyed hk, @eq_comm _ Status.errNotKeyed st]
  | true => simp [keyedCheck_keyed hk]

theorem blockCheck_eq_some_iff {e : Engine} {st : Status} :
    blockCheck e = some st ↔
      (e.keyed = false ∧ st = .errNotKeyed) ∨ (e.keyed = true ∧ e.bvalid = false ∧ st = .errNoBlock) := by
  cases hk : e.keyed with
  | false => simp [blockCheck_unkeyed hk, @eq_comm _ Status.errNotKeyed st]
  | true =>
    cases hb : e.bvalid with
    | false => simp [blockCheck_noBlock hk hb, @eq_comm _ Status.errNoBlock st]
    | true => simp [blockCheck_valid hk hb]

/-- The refusal a command meets on an engine, if any: the rows of R141. -/
def refusalOf (i : Instr) (e : Engine) : Option Status :=
  match i with
  | .init _ _ => none
  | .proc _ | .rstctr | .rst => keyedCheck e
  | .rstcur => blockCheck e
  | .reserved0 | .reserved6 | .reserved7 => some .errIllegalOp

/-- A command that answers a next state is refused with the status of its row, or met no check and answers OK. -/
theorem exec_refused_or_ok {i : Instr} {s t : State} (h : exec i s = .next t) :
    (∃ st, refusalOf i s.eng = some st ∧ t = refuse st s) ∨
    (refusalOf i s.eng = none ∧ t.rsp.map Response.status = some .ok) := by
  cases i with
  | init key nonce => cases h; exact .inr ⟨rfl, rfl⟩
  | reserved0 | reserved6 | reserved7 => cases h; exact .inl ⟨_, rfl, rfl⟩
  | proc din =>
    refine (guarded_next h).imp_right (And.imp_right fun hrun => ?_)
    obtain ⟨z, -, rfl⟩ := consumeWord_cases hrun
    rfl
  | rstctr | rstcur | rst =>
    refine (guarded_next h).imp_right (And.imp_right fun hrun => ?_)
    cases hrun
    rfl

section RefusalRows
variable (i : Instr) (e : Engine)

theorem refusalOf_eq_errNotKeyed :
    refusalOf i e = some .errNotKeyed ↔
      e.keyed = false ∧ ((∃ din, i = .proc din) ∨ i = .rstctr ∨ i = .rstcur ∨ i = .rst) := by
  cases i <;> simp [refusalOf, keyedCheck_eq_some_iff, blockCheck_eq_some_iff]

theorem refusalOf_eq_errNoBlock :
    refusalOf i e = some .errNoBlock ↔ e.keyed = true ∧ e.bvalid = false ∧ i = .rstcur := by
  cases i <;> simp [refusalOf, keyedCheck_eq_some_iff, blockCheck_eq_some_iff]

theorem refusalOf_eq_errIllegalOp :
    refusalOf i e = some .errIllegalOp ↔ i = .reserved0 ∨ i = .reserved6 ∨ i = .reserved7 := by
  cases i <;> simp [refusalOf, keyedCheck_eq_some_iff, blockCheck_eq_some_iff]

end RefusalRows

/-- A status other than OK is answered exactly when it is the command's refusal. -/
theorem status_eq_iff_refusalOf {i : Instr} {s t : State} {r : Response} {st : Status} (h : exec i s = .next t)
    (hr : t.rsp = some r) (hst : st ≠ .ok) : r.status = st ↔ refusalOf i s.eng = some st := by
  obtain ⟨st', hcheck, rfl⟩ | ⟨hcheck, hok⟩ := exec_refused_or_ok h
  · cases hr
    simp [hcheck]
  · have hr' : r.status = .ok := by simpa [hr] using hok
    simp [hcheck, hr', hst.symm]

/-- The state after an answer other than OK is the refusal with that status (R144). -/
theorem eq_refuse_of_status_ne_ok {i : Instr} {s t : State} {r : Response} (h : exec i s = .next t)
    (hr : t.rsp = some r) (hne : r.status ≠ .ok) : t = refuse r.status s := by
  obtain ⟨st, -, rfl⟩ | ⟨-, hok⟩ := exec_refused_or_ok h
  · cases hr
    rfl
  · exact absurd (by simpa [hr] using hok) hne

/-! ## What a command's effect and answer depend on -/

/-- Whenever the first outcome is a next state so is the second, with the same engine and the same response. -/
def AnswersAlike (o o' : Host.Outcome State Fault Refusal) : Prop :=
  ∀ t, o = .next t → ∃ u, o' = .next u ∧ u.eng = t.eng ∧ u.rsp = t.rsp

theorem answersAlike_next {t u : State} (heng : u.eng = t.eng) (hrsp : u.rsp = t.rsp) :
    AnswersAlike (.next t) (.next u) := by
  rintro _ ⟨⟩
  exact ⟨u, rfl, heng, hrsp⟩

/-- Completion answers from the engine it is given, not from the state. -/
theorem answersAlike_complete {e e' : Engine} (he : e' = e) (s u : State) :
    AnswersAlike (.next (complete e s)) (.next (complete e' u)) :=
  answersAlike_next he rfl

theorem answersAlike_guarded {check : Option Status} {s u : State} {run run' : Host.Outcome State Fault Refusal}
    (heng : u.eng = s.eng) (hrun : AnswersAlike run run') :
    AnswersAlike (guarded check s run) (guarded check u run') := by
  cases check with
  | some st => exact answersAlike_next heng rfl
  | none => exact hrun

theorem answersAlike_consumeWord (din : Word) {s u : State} (heng : u.eng = s.eng) :
    AnswersAlike (consumeWord din s) (consumeWord din u) := by
  intro t ht
  obtain ⟨z, hz, rfl⟩ := consumeWord_cases ht
  exact ⟨respond .ok (xor32 din z) { u with eng := advanceCursor (readyBlock u.eng) },
    by simp [consumeWord, heng, hz], by simp [heng], rfl⟩

/-- A command reads only the engine and the position in the free draws: two states that agree on these are answered alike. -/
theorem answersAlike_exec (i : Instr) {s u : State} (heng : u.eng = s.eng) (hdraws : u.draws = s.draws) :
    AnswersAlike (exec i s) (exec i u) := by
  cases i with
  | init key nonce => rw [exec_init, exec_init, hdraws]; exact answersAlike_complete rfl _ _
  | proc din => rw [exec_proc, exec_proc, heng]; exact answersAlike_guarded heng (answersAlike_consumeWord din heng)
  | rstctr => rw [exec_rstctr, exec_rstctr, heng]; exact answersAlike_guarded heng (answersAlike_complete rfl s u)
  | rstcur => rw [exec_rstcur, exec_rstcur, heng]; exact answersAlike_guarded heng (answersAlike_complete rfl s u)
  | rst => rw [exec_rst, exec_rst, heng]; exact answersAlike_guarded heng (answersAlike_complete rfl s u)
  | reserved0 | reserved6 | reserved7 => exact answersAlike_next heng rfl

end Sys2Proof.Machine

namespace Sys2Proof
open Machine

/-- Settles O34: an answer other than OK is the refusal the command meets, and each status is met exactly in its row. -/
theorem refusalsAreExactlyThese : Obligations.RefusalsAreExactlyThese := by
  unfold Obligations.RefusalsAreExactlyThese
  refine ⟨⟨rfl, rfl, rfl, rfl⟩, fun i s t r h hr => ⟨?notKeyed, ?noBlock, ?illegalOp, ?refused⟩, ?init⟩
  case notKeyed => exact (status_eq_iff_refusalOf h hr (by decide)).trans (refusalOf_eq_errNotKeyed i s.eng)
  case noBlock => exact (status_eq_iff_refusalOf h hr (by decide)).trans (refusalOf_eq_errNoBlock i s.eng)
  case illegalOp => exact (status_eq_iff_refusalOf h hr (by decide)).trans (refusalOf_eq_errIllegalOp i s.eng)
  case refused =>
    intro hne
    have ht : t = refuse r.status s := eq_refuse_of_status_ne_ok h hr hne
    have hresponse : r = ⟨r.status, 0#32⟩ := by
      rw [ht, refuse_rsp] at hr
      exact (Option.some.inj hr).symm
    exact ⟨congrArg Response.dout hresponse, by rw [ht, refuse_eng], ht⟩
  case init => exact fun key nonce s => ⟨_, exec_init s key nonce, rfl⟩

/-- Settles O35: a refusal keeps the engine and the position in the free draws, which are all that the next command reads. -/
theorem refusalLeavesNoTrace : Obligations.RefusalLeavesNoTrace := by
  unfold Obligations.RefusalLeavesNoTrace
  exact fun st s => ⟨refuse_eng st s, refuse_rsp st s, refuse_history st s,
    fun i => answersAlike_exec i (refuse_eng st s) (refuse_draws st s)⟩

end Sys2Proof
end

section
/-!
PROOFS. The statements of 30_encoding.md: the decoder against the encoder (section 1), the fields it reads, and the opcode table
(section 2).
-/

namespace Sys2Proof

/-- The record of a command decodes to it. -/
@[simp] theorem decodeCommand_encodeCommand (i : Instr) : decodeCommand (encodeCommand i) = i := by
  cases i <;> rfl

theorem decode_encode (i : Instr) : decode (encode i) = i := by
  rw [encode, decode_flat, decodeCommand_encodeCommand]

/-! ## The fields the decoder reads -/

theorem decodeCommand_init {c : Command} (h : c.op = 1#3) : decodeCommand c = .init c.key c.nonce := by
  simp [decodeCommand, h]

theorem decodeCommand_proc {c : Command} (h : c.op = 2#3) : decodeCommand c = .proc c.din := by
  simp [decodeCommand, h]

/-- The decoder reads `op`, the operand ports of INIT and of PROC for these two, and nothing else. -/
theorem decodeCommand_eq_iff (c d : Command) :
    decodeCommand c = decodeCommand d ↔
      c.op = d.op ∧ (c.op = 1#3 → c.key = d.key ∧ c.nonce = d.nonce) ∧ (c.op = 2#3 → c.din = d.din) := by
  constructor
  case mp =>
    intro h
    have hop : c.op = d.op := by rw [← Machine.op_decodeCommand c, h, Machine.op_decodeCommand]
    refine ⟨hop, fun h1 => ?_, fun h2 => ?_⟩
    · rw [decodeCommand_init h1, decodeCommand_init (hop ▸ h1)] at h
      exact Instr.init.inj h
    · rw [decodeCommand_proc h2, decodeCommand_proc (hop ▸ h2)] at h
      exact Instr.proc.inj h
  case mpr =>
    rintro ⟨hop, hinit, hproc⟩
    by_cases h1 : c.op = 1#3
    · obtain ⟨hkey, hnonce⟩ := hinit h1
      rw [decodeCommand_init h1, decodeCommand_init (hop ▸ h1), hkey, hnonce]
    by_cases h2 : c.op = 2#3
    · rw [decodeCommand_proc h2, decodeCommand_proc (hop ▸ h2), hproc h2]
    have h1' : d.op ≠ 1#3 := hop ▸ h1
    have h2' : d.op ≠ 2#3 := hop ▸ h2
    simp [decodeCommand, hop, h1', h2']

/-! ## The opcode table -/

theorem op_decode (w : BitVec 355) : (decode w).op = w.extractLsb' 352 3 := Machine.op_decodeCommand (Command.ofFlat w)

/-- Masking with the table's mask keeps the three bits of `op` and clears all others. -/
theorem and_opMask (w : BitVec 355) : w &&& opMask = w.extractLsb' 352 3 ++ 0#352 := by
  have hones : ∀ k < 3, (7#3).getLsbD k = true := by decide
  apply BitVec.eq_of_getLsbD_eq
  intro i hi
  rw [opMask, BitVec.getLsbD_and, BitVec.getLsbD_append, BitVec.getLsbD_append]
  by_cases h : i < 352
  · simp [h]
  · have hrange : i - 352 < 3 := by omega
    have hback : 352 + (i - 352) = i := by omega
    simp [h, hones (i - 352) hrange, hrange, hback]

/-- A row of the table selects exactly the vectors that carry its opcode (R68). -/
theorem opcodeRow_selects_iff (m : String) (op : BitVec 3) (w : BitVec 355) :
    w &&& (opcodeRow m op).mask = (opcodeRow m op).pattern ↔ (decode w).op = op := by
  have hinj : w.extractLsb' 352 3 ++ 0#352 = op ++ 0#352 ↔ w.extractLsb' 352 3 = op := by
    refine ⟨fun h => ?_, fun h => by rw [h]⟩
    have hupper (o : BitVec 3) : (o ++ 0#352).extractLsb' 352 3 = o :=
      (extractLsb'_append_upper o 0#352 0 3).trans (extractLsb'_whole o)
    rw [← hupper (w.extractLsb' 352 3), h, hupper]
  rw [opcodeRow, and_opMask, hinj, op_decode]

/-- The row of the opcode table that a command belongs to. -/
def Instr.row (i : Instr) : OpcodeRow := opcodeRow i.mnemonic i.op

theorem Instr.row_mem (i : Instr) : i.row ∈ opcodeTable := by
  cases i <;> simp [Instr.row, Instr.mnemonic, Instr.op, opcodeTable]

/-- Every row of the table is some command's. -/
theorem exists_row_eq {r : OpcodeRow} (h : r ∈ opcodeTable) : ∃ i : Instr, r = i.row := by
  simp only [opcodeTable, List.mem_cons, List.not_mem_nil, or_false] at h
  obtain rfl | rfl | rfl | rfl | rfl | rfl | rfl | rfl := h
  exacts [⟨.init 0 0, rfl⟩, ⟨.proc 0, rfl⟩, ⟨.rstctr, rfl⟩, ⟨.rstcur, rfl⟩, ⟨.rst, rfl⟩, ⟨.reserved0, rfl⟩,
    ⟨.reserved6, rfl⟩, ⟨.reserved7, rfl⟩]

/-- Mnemonics and opcodes tell commands apart alike (R61). -/
theorem Instr.mnemonic_eq_iff_op_eq (i j : Instr) : i.mnemonic = j.mnemonic ↔ i.op = j.op := by
  cases i <;> cases j <;> simp [Instr.mnemonic, Instr.op]

/-- A row of the table selects exactly the vectors whose decoding has its mnemonic. -/
theorem selects_iff_mnemonic (w : BitVec 355) {r : OpcodeRow} (h : r ∈ opcodeTable) :
    w &&& r.mask = r.pattern ↔ (decode w).mnemonic = r.mnemonic := by
  obtain ⟨i, rfl⟩ := exists_row_eq h
  exact (opcodeRow_selects_iff i.mnemonic i.op w).trans ((decode w).mnemonic_eq_iff_op_eq i).symm

/-- The one row that selects a vector is that of the command it decodes to. -/
theorem eq_row_of_selects {w : BitVec 355} {r : OpcodeRow} (h : r ∈ opcodeTable) (hr : w &&& r.mask = r.pattern) :
    r = (decode w).row := by
  have hmnemonic := (selects_iff_mnemonic w h).mp hr
  obtain ⟨i, rfl⟩ := exists_row_eq h
  have hop := ((decode w).mnemonic_eq_iff_op_eq i).mp hmnemonic
  rw [Instr.row, Instr.row, hop, hmnemonic]
  rfl

/-- Settles O22: the record of a command decodes to it, and the flat vector holds the record's fields. -/
theorem decodeInvertsEncode : Obligations.DecodeInvertsEncode := by
  unfold Obligations.DecodeInvertsEncode
  exact fun i _ => decode_encode i

/-- Settles O23: the rule of the decoded record, its fields being the slices of the flat vector. -/
theorem decodeReadsExactlyTheUsedFields : Obligations.DecodeReadsExactlyTheUsedFields := by
  unfold Obligations.DecodeReadsExactlyTheUsedFields
  exact fun v w => decodeCommand_eq_iff (Command.ofFlat v) (Command.ofFlat w)

/-- Settles O24: masking leaves the opcode, the row of the decoded command has it, and no other row does. -/
theorem opcodeTableIsATotalDecoder : Obligations.OpcodeTableIsATotalDecoder := by
  unfold Obligations.OpcodeTableIsATotalDecoder
  refine ⟨fun w => ⟨(decode w).row, ⟨(decode w).row_mem, ?selects⟩, ?unique⟩, fun w _ h => selects_iff_mnemonic w h⟩
  case selects => exact (selects_iff_mnemonic w (decode w).row_mem).mpr rfl
  case unique => exact fun r ⟨hmem, hr⟩ => eq_row_of_selects hmem hr

/-- Settles O25: six fixed words, decoded by computation. -/
theorem publishedFlatWordsDecode : Obligations.PublishedFlatWordsDecode := by
  unfold Obligations.PublishedFlatWordsDecode
  decide

end Sys2Proof
end

section
/-!
PROOFS. The statements of 10_state.md section 7: the invariants of the engine and of the responses, kept by every step (R37).
-/

namespace Sys2Proof.Machine

/-! ## The engine -/

/-- The constants in their places of a State array (R23, R37 (d)). -/
def HasConstants (b : Block) : Prop :=
  b[0] = 0x61707865#32 ∧ b[5] = 0x3320646e#32 ∧ b[10] = 0x79622d32#32 ∧ b[15] = 0x6b206574#32

theorem hasConstants_withCtr {b : Block} (h : HasConstants b) (c : BitVec 64) : HasConstants (withCtr b c) := by
  simpa [HasConstants, withCtr_other] using h

/-- An unkeyed engine has the invariants when it has no block and its cursor is 16: they say nothing of its words. -/
theorem Engine.inv_of_unkeyed {e : Engine} (hk : e.keyed = false) (hb : e.bvalid = false) (hc : e.cursor = 16#5) : e.Inv where
  cursor_le := BitVec.le_of_eq hc
  bvalid_keyed h := by simp [hb] at h
  fresh h := by simp [hk] at h
  constants h := by simp [hk] at h
  block h := by simp [hb] at h
  unkeyed _ := ⟨hb, hc⟩

theorem Engine.inv_freshEngine (key : BitVec 256) (nonce : BitVec 64) (b : Block) : (freshEngine key nonce b).Inv where
  cursor_le := BitVec.le_refl _
  bvalid_keyed h := by simp at h
  fresh _ _ := ⟨rfl, ctrOf_stateArray key nonce 0⟩
  constants _ := stateArray_constants key nonce 0
  block h := by simp at h
  unkeyed h := by simp at h

/-- R104: of what was before, `GenerateBlock` needs the key flag and the constants alone. -/
theorem Engine.inv_generateBlock {e : Engine} (hk : e.keyed = true) (hS : HasConstants e.S) : (generateBlock e).Inv where
  cursor_le := Nat.zero_le _
  bvalid_keyed _ := hk
  fresh _ h := by simp at h
  constants _ := hasConstants_withCtr hS _
  block _ := by simp [ctrInc]
  unkeyed h := by simp [hk] at h

/-- With a valid block the cursor may stand anywhere in its range. -/
theorem Engine.Inv.with_cursor {e : Engine} (h : e.Inv) (hb : e.bvalid = true) {c : BitVec 5} (hc : c ≤ 16#5) :
    { e with cursor := c }.Inv where
  cursor_le := hc
  bvalid_keyed := h.bvalid_keyed
  fresh _ h' := by simp [hb] at h'
  constants := h.constants
  block := h.block
  unkeyed h' := by simp [h.bvalid_keyed hb] at h'

theorem Engine.Inv.after_restartKeystream {e : Engine} (h : e.Inv) (hk : e.keyed = true) : (restartKeystream e).Inv :=
  inv_generateBlock (e := { e with S := withCtr e.S 0 }) hk (hasConstants_withCtr (h.constants hk) 0)

theorem Engine.Inv.after_rewindCursor {e : Engine} (h : e.Inv) (hb : e.bvalid = true) : (rewindCursor e).Inv :=
  h.with_cursor hb (by decide)

/-- R37 (c): a keyed engine that is not at the end of its block has one. -/
theorem Engine.Inv.bvalid_of_cursor_ne {e : Engine} (h : e.Inv) (hk : e.keyed = true) (hc : e.cursor ≠ 16) :
    e.bvalid = true := by
  cases hb : e.bvalid with
  | true => rfl
  | false => exact absurd (h.fresh hk hb).1 hc

/-- PROC reads its word from an engine with the invariants and a valid block. -/
theorem Engine.Inv.after_readyBlock {e : Engine} (h : e.Inv) (hk : e.keyed = true) :
    (readyBlock e).Inv ∧ (readyBlock e).bvalid = true := by
  by_cases hc : e.cursor = 16
  · rw [readyBlock_exhausted hc]
    exact ⟨inv_generateBlock hk (h.constants hk), rfl⟩
  · rw [readyBlock_not_exhausted hc]
    exact ⟨h, h.bvalid_of_cursor_ne hk hc⟩

theorem Engine.Inv.after_advanceCursor_readyBlock {e : Engine} (h : e.Inv) (hk : e.keyed = true) :
    (advanceCursor (readyBlock e)).Inv := by
  obtain ⟨hready, hb⟩ := h.after_readyBlock hk
  exact hready.with_cursor hb (advanceCursor_le h.cursor_le)

/-! ## The responses -/

/-- R64: giving a response keeps the record in its form, if this response has it. -/
theorem State.ResponsesInv.after_respond {s : State} (h : s.ResponsesInv) {st : Status} {d : Word} (hd : st ≠ .ok → d = 0#32) :
    (respond st d s).ResponsesInv where
  refused_dout := by
    rw [respond_history]
    exact List.forall_mem_append.mpr ⟨h.refused_dout, List.forall_mem_singleton.mpr hd⟩
  shown_last := by
    rintro r ⟨⟩
    rw [respond_history, List.getLast?_concat]

theorem State.ResponsesInv.after_idle {s : State} (h : s.ResponsesInv) : (idle s).ResponsesInv where
  refused_dout := h.refused_dout
  shown_last := by rintro r ⟨⟩

/-- The responses are not those of the inputs, the engine or the draws. -/
theorem State.ResponsesInv.congr {s t : State} (h : s.ResponsesInv) (hrsp : t.rsp = s.rsp) (hhistory : t.history = s.history) :
    t.ResponsesInv where
  refused_dout := hhistory ▸ h.refused_dout
  shown_last := hrsp ▸ hhistory ▸ h.shown_last

/-! ## Steps -/

theorem State.inv_hwReset (s : State) : (hwReset s).Inv where
  eng := Engine.inv_of_unkeyed rfl rfl rfl
  responses := ⟨by simp, by simp⟩

theorem State.inv_reset : State.reset.Inv where
  eng := Engine.inv_of_unkeyed rfl rfl rfl
  responses := ⟨by simp [State.reset], by simp [State.reset]⟩

/-- What the host has yet to drive is in no invariant. -/
theorem State.Inv.with_inputs {s : State} (h : s.Inv) (rest : List PortSample) : { s with inputs := rest }.Inv :=
  ⟨h.eng, h.responses.congr rfl rfl⟩

/-- The count of free draws is in no invariant. -/
theorem State.Inv.with_draws {s : State} (h : s.Inv) (n : Nat) : { s with draws := n }.Inv :=
  ⟨h.eng, h.responses.congr rfl rfl⟩

/-- An answer OK with an engine that has the invariants, whatever word is given. -/
theorem State.Inv.after_respond_ok {s : State} (h : s.Inv) {e : Engine} (he : e.Inv) (d : Word) :
    (respond .ok d { s with eng := e }).Inv where
  eng := he
  responses := State.ResponsesInv.after_respond (s := { s with eng := e }) (h.responses.congr rfl rfl) (absurd rfl)

/-- A completed command whose engine has the invariants. -/
theorem State.Inv.after_complete {s : State} (h : s.Inv) {e : Engine} (he : e.Inv) : (complete e s).Inv :=
  h.after_respond_ok he 0

theorem State.Inv.after_exec {i : Instr} {s t : State} (h : s.Inv) (ht : exec i s = .next t) : t.Inv := by
  obtain ⟨st, -, rfl, -⟩ | ⟨key, nonce, -, rfl⟩ | ⟨din, z, -, hk, -, rfl⟩ | ⟨-, hk, rfl⟩ | ⟨-, -, hb, rfl⟩ := exec_next ht
  case inl => exact ⟨h.eng, h.responses.after_respond fun _ => rfl⟩
  case inr.inl => exact (h.with_draws _).after_complete (Engine.inv_freshEngine key nonce _)
  case inr.inr.inl => exact h.after_respond_ok (h.eng.after_advanceCursor_readyBlock hk) _
  case inr.inr.inr.inl => exact h.after_complete (h.eng.after_restartKeystream hk)
  case inr.inr.inr.inr => exact h.after_complete (h.eng.after_rewindCursor hb)

theorem State.Inv.after_idle {s : State} (h : s.Inv) : (idle s).Inv := ⟨h.eng, h.responses.after_idle⟩

theorem State.Inv.after_onSample {p : PortSample} {s t : State} (h : s.Inv) (ht : onSample p s = .next t) : t.Inv := by
  obtain ⟨-, rfl⟩ | ⟨-, -, hexec⟩ | ⟨-, -, rfl⟩ := onSample_next ht
  · exact State.inv_hwReset s
  · exact h.after_exec hexec
  · exact h.after_idle

theorem State.Inv.after_step {s t : State} (h : s.Inv) (ht : step s = .next t) : t.Inv := by
  cases hin : s.inputs with
  | nil =>
    rw [step_nil hin] at ht
    cases ht
    exact h.after_idle
  | cons p rest =>
    rw [step_cons hin] at ht
    exact (h.with_inputs rest).after_onSample ht

/-! ## No state with the invariants stops -/

theorem guarded_completes {check : Option Status} {s : State} {run : Host.Outcome State Fault Refusal}
    (h : check = none → ∃ t, run = .next t) : ∃ t, guarded check s run = .next t := by
  cases check with
  | some st => exact ⟨_, guarded_some st s run⟩
  | none => exact h rfl

/-- Every command answers a next state while the cursor is in its range. -/
theorem exec_total (i : Instr) {s : State} (hc : s.eng.cursor ≤ 16#5) : ∃ t, exec i s = .next t := by
  cases i with
  | init key nonce => exact ⟨_, exec_init s key nonce⟩
  | proc din => exact guarded_completes fun _ => ⟨_, consumeWord_next din hc⟩
  | rstctr | rstcur | rst => exact guarded_completes fun _ => ⟨_, rfl⟩
  | reserved0 | reserved6 | reserved7 => exact ⟨_, rfl⟩

theorem State.Inv.onSample_total {s : State} (h : s.Inv) (p : PortSample) : ∃ t, onSample p s = .next t := by
  unfold Machine.onSample
  split
  · exact ⟨_, rfl⟩
  split
  · exact exec_total _ h.eng.cursor_le
  · exact ⟨_, rfl⟩

theorem State.Inv.step_total {s : State} (h : s.Inv) : ∃ t, Machine.step s = .next t := by
  cases hin : s.inputs with
  | nil => exact ⟨_, step_nil hin⟩
  | cons p rest =>
    rw [step_cons hin]
    exact (h.with_inputs rest).onSample_total p

/-- Any samples run from a state with the invariants, and into one. -/
theorem State.Inv.runSamples_total {s : State} (h : s.Inv) (ps : List PortSample) : ∃ t, runSamples ps s = .next t ∧ t.Inv := by
  induction ps generalizing s with
  | nil => exact ⟨s, rfl, h⟩
  | cons p ps ih =>
    obtain ⟨t, ht⟩ := h.onSample_total p
    rw [runSamples_cons ht]
    exact ih (h.after_onSample ht)

/-! ## The key and nonce in `S` -/

theorem holdsKey_freshEngine (key : BitVec 256) (nonce : BitVec 64) (b : Block) :
    (freshEngine key nonce b).HoldsKey key nonce :=
  ⟨rfl, by rw [freshEngine_S, ctrOf_stateArray]⟩

/-- Only `S` and the key flag hold the key: any counter value may be put into `S`. -/
theorem Engine.HoldsKey.of_withCtr {e e' : Engine} {key : BitVec 256} {nonce : BitVec 64} (h : e.HoldsKey key nonce)
    (hk : e'.keyed = e.keyed) {c : BitVec 64} (hS : e'.S = withCtr e.S c) : e'.HoldsKey key nonce := by
  obtain ⟨hkeyed, harray⟩ := h
  refine ⟨hk.trans hkeyed, ?_⟩
  rw [hS, harray, withCtr_stateArray, ctrOf_stateArray]

theorem Engine.HoldsKey.of_same {e e' : Engine} {key : BitVec 256} {nonce : BitVec 64} (h : e.HoldsKey key nonce)
    (hk : e'.keyed = e.keyed) (hS : e'.S = e.S) : e'.HoldsKey key nonce :=
  h.of_withCtr hk (c := ctrOf e.S) (by rw [hS, withCtr_ctrOf])

theorem Engine.HoldsKey.after_readyBlock {e : Engine} {key : BitVec 256} {nonce : BitVec 64} (h : e.HoldsKey key nonce) :
    (readyBlock e).HoldsKey key nonce := by
  by_cases hc : e.cursor = 16
  · rw [readyBlock_exhausted hc]
    exact h.of_withCtr rfl rfl
  · rwa [readyBlock_not_exhausted hc]

theorem Engine.HoldsKey.after_restartKeystream {e : Engine} {key : BitVec 256} {nonce : BitVec 64} (h : e.HoldsKey key nonce) :
    (restartKeystream e).HoldsKey key nonce := by
  refine h.of_withCtr rfl (c := ctrOf (withCtr e.S 0) + 1) ?_
  rw [restartKeystream_S, ctrInc, withCtr_withCtr]

/-- No command but INIT takes the key out of `S`. -/
theorem Engine.HoldsKey.after_exec {i : Instr} {s t : State} {key : BitVec 256} {nonce : BitVec 64} (h : s.eng.HoldsKey key nonce)
    (hi : i.op ≠ 1#3) (ht : exec i s = .next t) : t.eng.HoldsKey key nonce := by
  obtain ⟨st, -, rfl, -⟩ | ⟨key', nonce', rfl, -⟩ | ⟨din, z, -, -, -, rfl⟩ | ⟨-, -, rfl⟩ | ⟨-, -, -, rfl⟩ := exec_next ht
  case inl => exact h
  case inr.inl => exact absurd rfl hi
  case inr.inr.inl => exact h.after_readyBlock.of_same rfl rfl
  case inr.inr.inr.inl => exact h.after_restartKeystream
  case inr.inr.inr.inr => exact h.of_same rfl rfl

theorem Engine.HoldsKey.after_onSample {p : PortSample} {s t : State} {key : BitVec 256} {nonce : BitVec 64}
    (h : s.eng.HoldsKey key nonce) (hrst : p.rst = false) (hop : p.cmdValid = true → p.cmd.op ≠ 1#3)
    (ht : onSample p s = .next t) : t.eng.HoldsKey key nonce := by
  obtain ⟨hrst', -⟩ | ⟨-, hv, hexec⟩ | ⟨-, -, rfl⟩ := onSample_next ht
  · simp [hrst] at hrst'
  · exact h.after_exec (by rw [op_decodeCommand]; exact hop hv) hexec
  · exact h

end Sys2Proof.Machine

namespace Sys2Proof
open Machine

/-- Settles O49: each field of the next engine meets the invariants by the rule of the operation that wrote it, each response by
the rule of responses. -/
theorem everyStepKeepsTheInvariant : Obligations.EveryStepKeepsTheInvariant := by
  unfold Obligations.EveryStepKeepsTheInvariant
  exact fun _ _ h ht => h.after_step ht

/-- Settles O48: the state after reset is unkeyed, with no block and no response. -/
theorem resetStateMeetsTheInvariant : Obligations.ResetStateMeetsTheInvariant := by
  unfold Obligations.ResetStateMeetsTheInvariant
  exact State.inv_reset

/-- Settles O29: the fields of the state after reset. -/
theorem resetLeavesUnkeyedEngine : Obligations.ResetLeavesUnkeyedEngine := by
  unfold Obligations.ResetLeavesUnkeyedEngine
  exact ⟨rfl, rfl, rfl, rfl, ctrPort_unkeyed rfl⟩

/-- Settles O51: the one stop of the model is PROC with a cursor above 16, which the invariants exclude. -/
theorem invariantStatesNeverStop : Obligations.InvariantStatesNeverStop := by
  unfold Obligations.InvariantStatesNeverStop
  exact fun _ h => h.step_total

/-- Settles O52: the invariants hold at reset and lead on, by induction on the samples. -/
theorem everySampleSequenceRunsFromReset : Obligations.EverySampleSequenceRunsFromReset := by
  unfold Obligations.EverySampleSequenceRunsFromReset
  exact State.inv_reset.runSamples_total

/-- Settles O50: INIT writes the array of its key and nonce; every other command writes at most the counter words of `S`. -/
theorem keyAndNonceStayUntilNextInit : Obligations.KeyAndNonceStayUntilNextInit := by
  unfold Obligations.KeyAndNonceStayUntilNextInit
  refine ⟨fun key nonce s t ht => ?init, fun key nonce s t h ht hother => ?stay⟩
  case init =>
    cases ht
    exact holdsKey_freshEngine key nonce _
  case stay =>
    cases hin : s.inputs with
    | nil =>
      rw [step_nil hin] at ht
      cases ht
      exact h
    | cons p rest =>
      rw [step_cons hin] at ht
      obtain ⟨hrst, hop⟩ := hother p rest hin
      exact Engine.HoldsKey.after_onSample (s := { s with inputs := rest }) h hrst hop ht

end Sys2Proof
end

section
/-!
PROOFS. The statement of 10_state.md section 6: a simulation between two states that differ only in unspecified words (R27, R36).
-/

namespace Sys2Proof.Machine

/-- Whenever the first outcome is a next state so is the second, and the two differ only in unspecified words. -/
def SameOutcome (o o' : Host.Outcome State Fault Refusal) : Prop :=
  ∀ s', o = .next s' → ∃ t', o' = .next t' ∧ SameSpecified s' t'

theorem sameOutcome_next {s t : State} (h : SameSpecified s t) : SameOutcome (.next s) (.next t) := by
  rintro _ ⟨⟩
  exact ⟨t, rfl, h⟩

theorem engine_ext {e e' : Engine} (hS : e.S = e'.S) (hB : e.B = e'.B) (hcursor : e.cursor = e'.cursor)
    (hkeyed : e.keyed = e'.keyed) (hbvalid : e.bvalid = e'.bvalid) : e = e' := by
  cases e
  cases e'
  rw [Engine.mk.injEq]
  exact ⟨hS, hB, hcursor, hkeyed, hbvalid⟩

section SameStates
variable {s t : State} (h : SameSpecified s t)
include h

theorem SameSpecified.ctrPort_eq : ctrPort s = ctrPort t := by
  cases hk : s.eng.keyed with
  | false => rw [ctrPort_unkeyed hk, ctrPort_unkeyed (h.keyed ▸ hk)]
  | true => rw [ctrPort_keyed hk, ctrPort_keyed (h.keyed ▸ hk), h.words hk]

theorem SameSpecified.keyedCheck_eq : keyedCheck s.eng = keyedCheck t.eng := by
  simp only [keyedCheck, h.keyed]

theorem SameSpecified.blockCheck_eq : blockCheck s.eng = blockCheck t.eng := by
  simp only [blockCheck, h.keyed, h.bvalid]

/-- A keyed engine with a valid block has no unspecified word. -/
theorem SameSpecified.eng_eq (hk : s.eng.keyed = true) (hb : s.eng.bvalid = true) : s.eng = t.eng :=
  engine_ext (h.words hk) (h.block hb) h.cursor h.keyed h.bvalid

/-- A restart reads `S` and the key flag, which a keyed engine has specified. -/
theorem SameSpecified.restartKeystream_eq (hk : s.eng.keyed = true) : restartKeystream s.eng = restartKeystream t.eng := by
  simp only [restartKeystream, generateBlock, h.words hk, h.keyed]

/-- PROC reads its word from one engine: a new block at the end of the old one, else the valid block that the invariants give. -/
theorem SameSpecified.readyBlock_eq (hinv : s.Inv) (hk : s.eng.keyed = true) : readyBlock s.eng = readyBlock t.eng := by
  by_cases hc : s.eng.cursor = 16
  · rw [readyBlock_exhausted hc, readyBlock_exhausted (h.cursor ▸ hc)]
    simp only [generateBlock, h.words hk, h.keyed]
  · rw [h.eng_eq hk (hinv.eng.bvalid_of_cursor_ne hk hc)]

theorem SameSpecified.after_refuse (st : Status) : SameSpecified (refuse st s) (refuse st t) :=
  { h with
    rsp := rfl
    history := by rw [refuse_history, refuse_history, h.history] }

/-- One response given with one and the same engine. -/
theorem SameSpecified.respond_with_eng (st : Status) (d : Word) (e : Engine) :
    SameSpecified (respond st d { s with eng := e }) (respond st d { t with eng := e }) where
  cursor := rfl
  keyed := rfl
  bvalid := rfl
  words _ := rfl
  block _ := rfl
  inputs := h.inputs
  rsp := rfl
  history := by rw [respond_history, respond_history, h.history]

/-- INIT draws `B` anew on either side, and there is no valid block. -/
theorem SameSpecified.sameOutcome_init (key : BitVec 256) (nonce : BitVec 64) :
    SameOutcome (exec (.init key nonce) s) (exec (.init key nonce) t) :=
  sameOutcome_next
    { cursor := rfl
      keyed := rfl
      bvalid := rfl
      words := fun _ => rfl
      block := fun hb => by simp at hb
      inputs := h.inputs
      rsp := rfl
      history := by rw [complete_history, complete_history, h.history] }

theorem SameSpecified.after_hwReset : SameSpecified (hwReset s) (hwReset t) where
  cursor := rfl
  keyed := rfl
  bvalid := rfl
  words hk := by simp at hk
  block hb := by simp at hb
  inputs := h.inputs
  rsp := rfl
  history := rfl

theorem SameSpecified.after_idle : SameSpecified (idle s) (idle t) := { h with rsp := rfl }

theorem SameSpecified.with_inputs (rest : List PortSample) :
    SameSpecified { s with inputs := rest } { t with inputs := rest } := { h with inputs := rfl }

/-- The two states meet the same check, and behind it the command does the same. -/
theorem SameSpecified.sameOutcome_guarded {c c' : Option Status} {run run' : Host.Outcome State Fault Refusal} (hc : c = c')
    (hrun : c = none → SameOutcome run run') : SameOutcome (guarded c s run) (guarded c' t run') := by
  subst hc
  cases c with
  | some st => exact sameOutcome_next (h.after_refuse st)
  | none => exact hrun rfl

theorem SameSpecified.sameOutcome_complete {e e' : Engine} (he : e = e') :
    SameOutcome (.next (complete e s)) (.next (complete e' t)) := by
  subst he
  exact sameOutcome_next (h.respond_with_eng .ok 0 e)

theorem SameSpecified.sameOutcome_consumeWord (hinv : s.Inv) (hk : s.eng.keyed = true) (din : Word) :
    SameOutcome (consumeWord din s) (consumeWord din t) := by
  rw [consumeWord_next din hinv.eng.cursor_le, consumeWord_next din (h.cursor ▸ hinv.eng.cursor_le)]
  simp only [h.readyBlock_eq hinv hk]
  exact sameOutcome_next (h.respond_with_eng .ok _ _)

theorem SameSpecified.sameOutcome_exec (hinv : s.Inv) (i : Instr) : SameOutcome (exec i s) (exec i t) := by
  cases i with
  | init key nonce => exact h.sameOutcome_init key nonce
  | proc din => exact h.sameOutcome_guarded h.keyedCheck_eq fun hc => h.sameOutcome_consumeWord hinv (keyedCheck_eq_none hc) din
  | rstctr =>
    refine h.sameOutcome_guarded h.keyedCheck_eq fun hc => h.sameOutcome_complete ?_
    exact h.restartKeystream_eq (keyedCheck_eq_none hc)
  | rstcur =>
    refine h.sameOutcome_guarded h.blockCheck_eq fun hc => h.sameOutcome_complete ?_
    obtain ⟨hk, hb⟩ := blockCheck_eq_none hc
    rw [h.eng_eq hk hb]
  | rst =>
    refine h.sameOutcome_guarded h.keyedCheck_eq fun hc => h.sameOutcome_complete ?_
    rw [h.restartKeystream_eq (keyedCheck_eq_none hc)]
  | reserved0 | reserved6 | reserved7 => exact sameOutcome_next (h.after_refuse .errIllegalOp)

theorem SameSpecified.sameOutcome_onSample (hinv : s.Inv) (p : PortSample) : SameOutcome (onSample p s) (onSample p t) := by
  unfold onSample
  split
  · exact sameOutcome_next h.after_hwReset
  split
  · exact h.sameOutcome_exec hinv (decodeCommand p.cmd)
  · exact sameOutcome_next h.after_idle

theorem SameSpecified.sameOutcome_step (hinv : s.Inv) : SameOutcome (step s) (step t) := by
  cases hin : s.inputs with
  | nil =>
    rw [step_nil hin, step_nil (h.inputs ▸ hin)]
    exact sameOutcome_next h.after_idle
  | cons p rest =>
    rw [step_cons hin, step_cons (h.inputs ▸ hin)]
    exact (h.with_inputs rest).sameOutcome_onSample (hinv.with_inputs rest) p

end SameStates

end Sys2Proof.Machine

namespace Sys2Proof
open Machine

/-- Settles O53: where a command reads `S` the engine is keyed, and where it reads `B` the block is valid or generated in the same
step, so nothing it reads is unspecified. -/
theorem unspecifiedWordsAreNeverObserved : Obligations.UnspecifiedWordsAreNeverObserved := by
  unfold Obligations.UnspecifiedWordsAreNeverObserved
  intro s t s' hs _ h hstep
  obtain ⟨t', ht', hsame⟩ := h.sameOutcome_step hs s' hstep
  exact ⟨t', ht', hsame, hsame.ctrPort_eq⟩

end Sys2Proof
end

section
/-!
PROOFS. The statements of 40_permutation.md: the rotation (section 1), the quarter-round as an invertible map (section 2), and
what follows for rounds and for `Perm20` (section 3); the block function as `Perm20` and the feed-forward (41_block_generator.md).
-/

namespace Sys2Proof.Machine

/-! ## Rotation -/

/-- The bits shifted out at the top are the quotient by `2 ^ (32 - n)`, and they fill the places left free at the bottom. -/
theorem toNat_rotl32 (v : Word) {n : Nat} (h : n ≤ 31) :
    (rotl32 v n).toNat = (v.toNat * 2 ^ n) % 2 ^ 32 + v.toNat / 2 ^ (32 - n) := by
  have hsplit : 2 ^ 32 = 2 ^ (32 - n) * 2 ^ n := by rw [← Nat.pow_add, Nat.sub_add_cancel (by omega)]
  have hkept : (v.toNat * 2 ^ n) % 2 ^ 32 = (v.toNat % 2 ^ (32 - n)) <<< n := by
    rw [hsplit, Nat.mul_mod_mul_right, Nat.shiftLeft_eq]
  have hmoved : v.toNat / 2 ^ (32 - n) < 2 ^ n := Nat.div_lt_of_lt_mul (hsplit ▸ v.isLt)
  rw [rotl32, BitVec.toNat_rotateLeft, Nat.mod_eq_of_lt (show n < 32 by omega), Nat.shiftLeft_eq, Nat.shiftRight_eq_div_pow,
    hkept, Nat.shiftLeft_add_eq_or_of_lt hmoved]

/-- R82: bit `i` goes to bit `(i + n) mod 32`. -/
theorem getLsbD_rotl32 (v : Word) {n i : Nat} (hn : n ≤ 31) (hi : i < 32) :
    (rotl32 v n).getLsbD ((i + n) % 32) = v.getLsbD i := by
  have hmod : n % 32 = n := Nat.mod_eq_of_lt (by omega)
  rw [rotl32, BitVec.getLsbD_rotateLeft, hmod]
  by_cases hwrap : i + n < 32
  · have hpos : (i + n) % 32 = i + n := Nat.mod_eq_of_lt hwrap
    simp [hpos, hwrap]
  · have hpos : (i + n) % 32 = i + n - 32 := by omega
    have hlow : i + n - 32 < n := by omega
    have hback : 32 - n + (i + n - 32) = i := by omega
    simp [hpos, hlow, hback]

/-- R82: no bit is lost. -/
theorem rotl32_injective {u v : Word} {n : Nat} (hn : n ≤ 31) (h : rotl32 u n = rotl32 v n) : u = v := by
  apply BitVec.eq_of_getLsbD_eq
  intro i hi
  rw [← getLsbD_rotl32 u hn hi, h, getLsbD_rotl32 v hn hi]

theorem rotl32_allOnes {n : Nat} (hn : n ≤ 31) : rotl32 0xffffffff#32 n = 0xffffffff#32 := by
  have hones : ∀ k < 32, (0xffffffff#32).getLsbD k = true := by decide
  have hmod : n % 32 = n := Nat.mod_eq_of_lt (by omega)
  apply BitVec.eq_of_getLsbD_eq
  intro i hi
  rw [rotl32, BitVec.getLsbD_rotateLeft, hmod, hones i hi]
  by_cases hlow : i < n
  · simp only [hlow, decide_true, cond_true, hones (32 - n + i) (by omega)]
  · simp only [hlow, hi, decide_true, decide_false, cond_false, hones (i - n) (by omega), Bool.and_self]

/-! ## The quarter-round is invertible -/

theorem xor32_right_injective {x y z : Word} (h : xor32 x z = xor32 y z) : x = y := by
  rw [← xor32_xor32_cancel x z, h, xor32_xor32_cancel]

/-- R84: undone from the last step to the first, each step gives back the word it wrote: it XORs a value of the others. -/
theorem quarterRound_injective {a b c d a' b' c' d' : Word} (h : quarterRound a b c d = quarterRound a' b' c' d') :
    a = a' ∧ b = b' ∧ c = c' ∧ d = d' := by
  obtain ⟨ha, hb, hc, hd⟩ : _ ∧ _ ∧ _ ∧ _ := by simpa only [quarterRound, Prod.mk.injEq] using h
  rw [hd, hc] at ha
  have hA : a = a' := xor32_right_injective ha
  rw [hc, hb] at hd
  have hD : d = d' := xor32_right_injective hd
  rw [hb, hA] at hc
  have hC : c = c' := xor32_right_injective hc
  rw [hA, hD] at hb
  have hB : b = b' := xor32_right_injective hb
  exact ⟨hA, hB, hC, hD⟩

theorem quarterRoundOf_injective : Function.Injective quarterRoundOf := by
  rintro ⟨a, b, c, d⟩ ⟨a', b', c', d'⟩ h
  obtain ⟨rfl, rfl, rfl, rfl⟩ := quarterRound_injective h
  rfl

/-! ## Quarter-rounds in place -/

/-- Two buffers with the same words at the positions agree at each of them. -/
theorem Quad.getElem_eq_of_words_eq {q : Quad} {x y : Block} (h : q.words x = q.words y) {j : Fin 16} (hj : j ∈ q.positions) :
    x[j] = y[j] := by
  simp only [words, Prod.mk.injEq] at h
  obtain ⟨ha, hb, hc, hd⟩ := h
  simp only [positions, List.mem_cons, List.not_mem_nil, or_false] at hj
  obtain rfl | rfl | rfl | rfl := hj
  exacts [ha, hb, hc, hd]

theorem block_ext {x y : Block} (h : ∀ j : Fin 16, x[j] = y[j]) : x = y :=
  Vector.ext fun i hi => h ⟨i, hi⟩

/-- Two buffers that agree on some quads of positions and on the positions of none are one. -/
theorem block_ext_of_words {qs : List Quad} {x y : Block} (hwords : ∀ q ∈ qs, q.words x = q.words y)
    (hother : ∀ j : Fin 16, j ∉ qs.flatMap Quad.positions → x[j] = y[j]) : x = y := by
  refine block_ext fun j => ?_
  by_cases hj : j ∈ qs.flatMap Quad.positions
  · obtain ⟨q, hq, hjq⟩ := List.mem_flatMap.mp hj
    exact Quad.getElem_eq_of_words_eq (hwords q hq) hjq
  · exact hother j hj

/-- Quarter-rounds on disjoint positions lose nothing, since each pure quarter-round loses nothing. -/
theorem qrs_injective {qs : List Quad} (h : (qs.flatMap Quad.positions).Nodup) : Function.Injective (qrs qs) := by
  intro x y hxy
  refine block_ext_of_words (qs := qs) (fun q hq => ?words) fun j hj => ?other
  case words =>
    apply quarterRoundOf_injective
    rw [← words_qrs h x q hq, ← words_qrs h y q hq, hxy]
  case other => rw [← qrs_other hj x, ← qrs_other hj y, hxy]

/-- Quarter-rounds on disjoint positions do the same in any order: each word is a function of the buffer before the first. -/
theorem qrs_perm {qs ps : List Quad} (h : (qs.flatMap Quad.positions).Nodup) (hperm : qs.Perm ps) (x : Block) :
    qrs qs x = qrs ps x := by
  have hpositions : (qs.flatMap Quad.positions).Perm (ps.flatMap Quad.positions) := hperm.flatMap_right Quad.positions
  refine block_ext_of_words (qs := qs) (fun q hq => ?words) fun j hj => ?other
  case words => rw [words_qrs h x q hq, words_qrs (hpositions.nodup h) x q (hperm.mem_iff.mp hq)]
  case other => rw [qrs_other hj x, qrs_other (fun hj' => hj (hpositions.mem_iff.mpr hj')) x]

/-- R89: a buffer whose words are all 0 is a fixed point of quarter-rounds. -/
theorem qrs_zero {qs : List Quad} (h : (qs.flatMap Quad.positions).Nodup) {z : Block} (hz : ∀ j : Fin 16, z[j] = 0#32) :
    qrs qs z = z := by
  refine block_ext_of_words (qs := qs) (fun q hq => ?words) fun j hj => qrs_other hj z
  case words =>
    have hwords : q.words z = (0#32, 0#32, 0#32, 0#32) := by simp only [Quad.words, hz]
    rw [words_qrs h z q hq, hwords]
    exact quarterRound_zero

/-! ## Rounds and `Perm20` -/

theorem columnRound_injective : Function.Injective columnRound := by
  rw [funext columnRound_eq_qrs]
  exact qrs_injective columns_nodup

theorem rowRound_injective : Function.Injective rowRound := by
  rw [funext rowRound_eq_qrs]
  exact qrs_injective rows_nodup

theorem doubleRound_injective : Function.Injective doubleRound := rowRound_injective.comp columnRound_injective

theorem doubleRounds_eq_iterate (n : Nat) (x : Block) : doubleRounds n x = doubleRound^[n] x := by
  induction n generalizing x with
  | zero => rfl
  | succ n ih => exact ih (doubleRound x)

/-- R88. -/
theorem perm20_eq_iterate : perm20 = doubleRound^[10] :=
  funext fun x => (perm20_eq x).trans (doubleRounds_eq_iterate 10 x)

theorem perm20_injective : Function.Injective perm20 := by
  rw [perm20_eq_iterate]
  exact doubleRound_injective.iterate 10

/-- There are finitely many buffers: a buffer is its sixteen words. -/
theorem finite_block : Finite Block :=
  Finite.of_injective (fun (x : Block) (j : Fin 16) => x[j]) fun _ _ h => block_ext fun j => congrFun h j

theorem perm20_bijective : Function.Bijective perm20 :=
  haveI := finite_block
  perm20_injective.bijective_of_finite

section ZeroBuffer
variable {z : Block} (hz : ∀ j : Fin 16, z[j] = 0#32)
include hz

theorem columnRound_zero : columnRound z = z :=
  (columnRound_eq_qrs z).trans (qrs_zero columns_nodup hz)

theorem rowRound_zero : rowRound z = z :=
  (rowRound_eq_qrs z).trans (qrs_zero rows_nodup hz)

theorem doubleRound_zero : doubleRound z = z := by
  rw [doubleRound, columnRound_zero hz, rowRound_zero hz]

theorem perm20_zero : perm20 z = z := by
  rw [perm20_eq_iterate]
  exact Function.iterate_fixed (doubleRound_zero hz) 10

end ZeroBuffer

/-- R101: the feed-forward, word by word. -/
theorem getElem_salsa20Block (t : Block) (i : Fin 16) : (salsa20Block t)[i] = add32 (perm20 t)[i] t[i] :=
  Vector.getElem_zipWith i.isLt

theorem salsa20Block_zero {z : Block} (hz : ∀ j : Fin 16, z[j] = 0#32) : salsa20Block z = z := by
  refine block_ext fun j => ?_
  rw [getElem_salsa20Block, perm20_zero hz, hz j, add32_zero]

end Sys2Proof.Machine

namespace Sys2Proof
open Machine

/-- Settles O2: the arithmetic form and the place of each bit, from which no bit is lost; the examples are computed. -/
theorem rotl32MovesEveryBit : Obligations.Rotl32MovesEveryBit := by
  unfold Obligations.Rotl32MovesEveryBit
  exact ⟨fun v n _ hn => ⟨toNat_rotl32 v hn, fun i hi => getLsbD_rotl32 v hn hi, fun u => rotl32_injective hn, rotl32_zero n,
    rotl32_allOnes hn⟩, by decide⟩

/-- Settles O5: the four steps are undone from the last to the first. -/
theorem quarterRoundIsInjective : Obligations.QuarterRoundIsInjective := by
  unfold Obligations.QuarterRoundIsInjective
  exact fun _ _ _ _ _ _ _ _ => quarterRound_injective

/-- Settles O8: the two orders are permutations of one list of quarter-rounds on disjoint positions. -/
theorem disjointQuarterRoundsCommute : Obligations.DisjointQuarterRoundsCommute := by
  unfold Obligations.DisjointQuarterRoundsCommute
  intro x a b c d a' b' c' d' hdisjoint hp hq
  exact qrs_perm (qs := [⟨a, b, c, d⟩, ⟨a', b', c', d'⟩]) (hp.append hq hdisjoint) (List.Perm.swap _ _ []) x

/-- Settles O9: the tenfold iterate by the definition; a round loses nothing, so `Perm20` is injective, on finitely many
buffers. -/
theorem perm20IsABijection : Obligations.Perm20IsABijection := by
  unfold Obligations.Perm20IsABijection
  exact ⟨perm20_bijective, fun x => congrFun perm20_eq_iterate x⟩

/-- Settles O11: the quarter-round of zero words is zero words, and so are the rounds, their iterates and the feed-forward. -/
theorem allZeroBufferIsFixed : Obligations.AllZeroBufferIsFixed := by
  unfold Obligations.AllZeroBufferIsFixed
  exact fun z hz => ⟨columnRound_zero hz, rowRound_zero hz, doubleRound_zero hz, perm20_zero hz, salsa20Block_zero hz⟩

/-- Settles O12: the feed-forward's sum is modulo 2^32. -/
theorem blockIsPermutationPlusFeedForward : Obligations.BlockIsPermutationPlusFeedForward := by
  unfold Obligations.BlockIsPermutationPlusFeedForward
  intro t i
  rw [getElem_salsa20Block, toNat_add32]

end Sys2Proof
end

section
/-!
PROOFS. The statements of 20_memory.md sections 2 and 3: words as bytes, buffers as words, and the host-side wrapper's length
checks; the constants as bytes (10_state.md section 2).
-/

namespace Sys2Proof.Machine

/-! ## A word and its bytes -/

/-- A concatenation as a number: the upper part counts in units of the lower part's size. -/
theorem toNat_append_eq_add {m n : Nat} (x : BitVec m) (y : BitVec n) : (x ++ y).toNat = x.toNat * 2 ^ n + y.toNat := by
  rw [BitVec.toNat_append, ← Nat.shiftLeft_add_eq_or_of_lt y.isLt, Nat.shiftLeft_eq]

section Bytes
variable (b0 b1 b2 b3 : Byte)

theorem byteOfWord_wordOfBytes_zero : byteOfWord (wordOfBytes b0 b1 b2 b3) 0 = b0 :=
  (extractLsb'_append_lower (b3 ++ b2 ++ b1) b0 0 8 (by decide)).trans (extractLsb'_whole b0)

theorem byteOfWord_wordOfBytes_one : byteOfWord (wordOfBytes b0 b1 b2 b3) 1 = b1 :=
  (extractLsb'_append_upper (b3 ++ b2 ++ b1) b0 0 8).trans <|
    (extractLsb'_append_lower (b3 ++ b2) b1 0 8 (by decide)).trans (extractLsb'_whole b1)

theorem byteOfWord_wordOfBytes_two : byteOfWord (wordOfBytes b0 b1 b2 b3) 2 = b2 :=
  (extractLsb'_append_upper (b3 ++ b2 ++ b1) b0 8 8).trans <|
    (extractLsb'_append_upper (b3 ++ b2) b1 0 8).trans <|
      (extractLsb'_append_lower b3 b2 0 8 (by decide)).trans (extractLsb'_whole b2)

theorem byteOfWord_wordOfBytes_three : byteOfWord (wordOfBytes b0 b1 b2 b3) 3 = b3 :=
  (extractLsb'_append_upper (b3 ++ b2 ++ b1) b0 16 8).trans <|
    (extractLsb'_append_upper (b3 ++ b2) b1 8 8).trans <|
      (extractLsb'_append_upper b3 b2 0 8).trans (extractLsb'_whole b3)

/-- R42, R44: a word has its bytes back, least significant first. -/
theorem bytesOfWord_wordOfBytes : bytesOfWord (wordOfBytes b0 b1 b2 b3) = [b0, b1, b2, b3] := by
  rw [bytesOfWord, byteOfWord_wordOfBytes_zero, byteOfWord_wordOfBytes_one, byteOfWord_wordOfBytes_two,
    byteOfWord_wordOfBytes_three]

theorem toNat_wordOfBytes :
    (wordOfBytes b0 b1 b2 b3).toNat = b0.toNat + b1.toNat * 2 ^ 8 + b2.toNat * 2 ^ 16 + b3.toNat * 2 ^ 24 := by
  simp only [wordOfBytes, toNat_append_eq_add]
  omega

end Bytes

/-- The bytes of a word make it again. -/
theorem wordOfBytes_bytes (w : Word) : wordOfBytes (byteOfWord w 0) (byteOfWord w 1) (byteOfWord w 2) (byteOfWord w 3) = w := by
  have hjoin (s t n : Nat) (h : t = s + 8) : w.extractLsb' t n ++ w.extractLsb' s 8 = w.extractLsb' s (n + 8) :=
    BitVec.extractLsb'_append_extractLsb'_eq_extractLsb' h
  rw [wordOfBytes, byteOfWord, byteOfWord, byteOfWord, byteOfWord, hjoin _ _ _ rfl, hjoin _ _ _ rfl, hjoin _ _ _ rfl]
  exact extractLsb'_whole w

/-- R45: keystream byte `4i + j` is byte `j` of word `i`. -/
theorem keystreamByte_lane (b : Block) (i : Fin 16) (j : Fin 4) (h : 4 * i.val + j.val < 64) :
    keystreamByte b ⟨4 * i.val + j.val, h⟩ = byteOfWord b[i] j.val := by
  have hword : (4 * i.val + j.val) / 4 = i.val := by omega
  have hbyte : (4 * i.val + j.val) % 4 = j.val := by omega
  simp [keystreamByte, hword, hbyte]

/-! ## Buffers -/

theorem bufferOfWords_cons (w : Word) (ws : List Word) : bufferOfWords (w :: ws) = bytesOfWord w ++ bufferOfWords ws :=
  List.flatMap_cons

theorem wordsOfBuffer_append_word {w : Word} {bytes : List Byte} {ws : List Word} (h : wordsOfBuffer bytes = .ok ws) :
    wordsOfBuffer (bytesOfWord w ++ bytes) = .ok (w :: ws) := by
  simp [bytesOfWord, wordsOfBuffer, h, wordOfBytes_bytes]

theorem wordsOfBuffer_bufferOfWords (ws : List Word) : wordsOfBuffer (bufferOfWords ws) = .ok ws := by
  induction ws with
  | nil => rfl
  | cons w ws ih => rw [bufferOfWords_cons, wordsOfBuffer_append_word ih]

theorem bufferOk_word (b0 b1 b2 b3 : Byte) (rest : List Byte) : bufferOk (b0 :: b1 :: b2 :: b3 :: rest) = bufferOk rest := by
  have hmod : (rest.length + 4) % 4 = rest.length % 4 := Nat.add_mod_right rest.length 4
  exact congrArg (· == 0) hmod

/-- R46: a buffer is a whole number of words and written back from them, or it is `UnalignedInput`. -/
theorem wordsOfBuffer_cases (bytes : List Byte) :
    (bufferOk bytes = true ∧ ∃ ws, wordsOfBuffer bytes = .ok ws ∧ bufferOfWords ws = bytes) ∨
    (bufferOk bytes = false ∧ wordsOfBuffer bytes = .error .unalignedInput) :=
  match bytes with
  | [] => .inl ⟨rfl, [], rfl, rfl⟩
  | [_] | [_, _] | [_, _, _] => .inr ⟨rfl, rfl⟩
  | b0 :: b1 :: b2 :: b3 :: rest => by
    rw [bufferOk_word]
    refine (wordsOfBuffer_cases rest).imp (And.imp_right ?aligned) (And.imp_right ?unaligned)
    case aligned =>
      rintro ⟨ws, hws, hback⟩
      refine ⟨wordOfBytes b0 b1 b2 b3 :: ws, by simp [wordsOfBuffer, hws], ?_⟩
      rw [bufferOfWords_cons, bytesOfWord_wordOfBytes, hback]
      rfl
    case unaligned =>
      intro hrest
      simp [wordsOfBuffer, hrest]

/-! ## The length checks of an INIT line -/

section InitLine
variable {key nonce : List Byte}

theorem samples_init_of_key_length_ne (h : key.length ≠ 32) :
    (ScriptLine.init key nonce).samples = .error .invalidKeyLength := by
  simp [ScriptLine.samples, keyBytesOk, h]

theorem samples_init_of_nonce_length_ne (hk : key.length = 32) (hn : nonce.length ≠ 8) :
    (ScriptLine.init key nonce).samples = .error .invalidNonceLength := by
  simp [ScriptLine.samples, keyBytesOk, nonceBytesOk, hk, hn]

theorem samples_init (hk : key.length = 32) (hn : nonce.length = 8) :
    (ScriptLine.init key nonce).samples = .ok (offers [.init (keyOfBytes key) (nonceOfBytes nonce)]) := by
  simp [ScriptLine.samples, keyBytesOk, nonceBytesOk, hk, hn]

end InitLine

end Sys2Proof.Machine

namespace Sys2Proof
open Machine

/-- Settles O18: the bytes of a word by their slices, XOR slice by slice, and buffers by induction on the words. -/
theorem buffersAreLittleEndianWords : Obligations.BuffersAreLittleEndianWords := by
  unfold Obligations.BuffersAreLittleEndianWords
  exact ⟨fun b0 b1 b2 b3 => ⟨bytesOfWord_wordOfBytes b0 b1 b2 b3, toNat_wordOfBytes b0 b1 b2 b3⟩,
    fun _ _ _ => BitVec.extractLsb'_xor, fun b i j => keystreamByte_lane b i j _, wordsOfBuffer_bufferOfWords⟩

/-- Settles O19: the two cases of a buffer exclude each other; the checks of an INIT line in their order. -/
theorem wrapperRefusesWrongLengths : Obligations.WrapperRefusesWrongLengths := by
  unfold Obligations.WrapperRefusesWrongLengths
  refine ⟨fun bytes => ?buffer, fun _ _ hk _ => samples_init_of_key_length_ne hk,
    fun _ _ hk _ => samples_init_of_key_length_ne hk, fun _ _ => samples_init_of_nonce_length_ne, fun _ _ => samples_init⟩
  case buffer =>
    obtain ⟨hok, ws, hws, hback⟩ | ⟨hbad, herror⟩ := wordsOfBuffer_cases bytes
    · exact ⟨by simp [hws, hok], fun _ => ⟨ws, hws, hback⟩⟩
    · exact ⟨iff_of_true herror hbad, fun hok => by simp [hbad] at hok⟩

/-- Settles O20: eight equations of fixed words, computed. -/
theorem constantsSpellExpand32ByteK : Obligations.ConstantsSpellExpand32ByteK := by
  unfold Obligations.ConstantsSpellExpand32ByteK
  decide

end Sys2Proof
end

section
/-!
PROOFS. The statements of 42_commands.md section 2 and 10_state.md sections 1 and 2: what each command does on a keyed engine, what
it leaves unchanged, and what it does when repeated.
-/

namespace Sys2Proof.Machine

/-! ## Each command on an engine that passes its checks -/

theorem exec_rstctr_keyed {s : State} (hk : s.eng.keyed = true) :
    exec .rstctr s = .next (complete (restartKeystream s.eng) s) := by
  rw [exec_rstctr, keyedCheck_keyed hk, guarded_none]

theorem exec_rstcur_valid {s : State} (hk : s.eng.keyed = true) (hb : s.eng.bvalid = true) :
    exec .rstcur s = .next (complete (rewindCursor s.eng) s) := by
  rw [exec_rstcur, blockCheck_valid hk hb, guarded_none]

/-- R125: the cursor is 0 after a restart already. -/
theorem rewindCursor_restartKeystream (e : Engine) : rewindCursor (restartKeystream e) = restartKeystream e := rfl

theorem exec_rst_eq_exec_rstctr (s : State) : exec .rst s = exec .rstctr s := by
  rw [exec_rst, rewindCursor_restartKeystream, exec_rstctr]

theorem ctrOf_restartKeystream (e : Engine) : ctrOf (restartKeystream e).S = 1#64 := by
  rw [restartKeystream_S, ctrOf_ctrInc, ctrOf_withCtr]
  rfl

/-- R123: a restart writes the counter words of `S` only. -/
theorem restartKeystream_S_other (e : Engine) {j : Fin 16} (h8 : j ≠ 8) (h9 : j ≠ 9) :
    (restartKeystream e).S[j] = e.S[j] :=
  (ctrInc_other (withCtr e.S 0) h8 h9).trans
    (withCtr_other e.S 0 j j.isLt (Fin.val_ne_of_ne h8) (Fin.val_ne_of_ne h9))

/-- R123: what RSTCTR does on a keyed engine. -/
theorem exec_rstctr_completes {s : State} (hk : s.eng.keyed = true) :
    ∃ t, exec .rstctr s = .next t ∧
      t.rsp = some ⟨.ok, 0#32⟩ ∧ t.history = s.history ++ [⟨.ok, 0#32⟩] ∧
      ctrOf t.eng.S = 1#64 ∧ t.eng.B = salsa20Block (withCtr s.eng.S 0#64) ∧ t.eng.cursor = 0#5 ∧ t.eng.bvalid = true ∧
      t.eng.keyed = true ∧ (∀ j : Fin 16, j ≠ 8 → j ≠ 9 → t.eng.S[j] = s.eng.S[j]) ∧
      t.inputs = s.inputs ∧ t.draws = s.draws :=
  ⟨_, exec_rstctr_keyed hk, rfl, rfl, ctrOf_restartKeystream s.eng, rfl, rfl, rfl, hk,
    fun _ h8 h9 => restartKeystream_S_other s.eng h8 h9, rfl, rfl⟩

/-- Log entry 5: above 16 the cursor is no index of `B`. -/
theorem consumeWord_fault (din : Word) {s : State} (hc : 16#5 < s.eng.cursor) :
    consumeWord din s = .fault .cursorOutOfRange := by
  have hne : s.eng.cursor ≠ 16 := (BitVec.ne_of_lt hc).symm
  have hlt : 16 < s.eng.cursor.toNat := hc
  have hnone : keystreamWord s.eng = none := by
    rw [keystreamWord]
    exact Vector.getElem?_eq_none (Nat.le_of_lt hlt)
  simp [consumeWord, readyBlock_not_exhausted hne, hnone]

/-! ## Frames -/

/-- R122: the block PROC reads from differs in the counter words of `S` at most. -/
theorem readyBlock_S_other (e : Engine) {j : Fin 16} (h8 : j ≠ 8) (h9 : j ≠ 9) : (readyBlock e).S[j] = e.S[j] := by
  by_cases hc : e.cursor = 16
  · rw [readyBlock_exhausted hc]
    exact ctrInc_other e.S h8 h9
  · rw [readyBlock_not_exhausted hc]

section Frames
variable {i : Instr} {s t : State} (h : exec i s = .next t)
include h

theorem exec_inputs : t.inputs = s.inputs := by
  obtain ⟨st, -, rfl, -⟩ | ⟨key, nonce, -, rfl⟩ | ⟨din, z, -, -, -, rfl⟩ | ⟨-, -, rfl⟩ | ⟨-, -, -, rfl⟩ := exec_next h <;> rfl

/-- Every command gives one response, on the ports and at the end of the record (R53). -/
theorem exec_responds : ∃ r, t.rsp = some r ∧ t.history = s.history ++ [r] := by
  obtain ⟨st, -, rfl, -⟩ | ⟨key, nonce, -, rfl⟩ | ⟨din, z, -, -, -, rfl⟩ | ⟨-, -, rfl⟩ | ⟨-, -, -, rfl⟩ := exec_next h <;>
    exact ⟨_, rfl, rfl⟩

theorem exec_frame_of_not_init (hi : ∀ key nonce, i ≠ .init key nonce) :
    t.eng.keyed = s.eng.keyed ∧ t.draws = s.draws ∧ ∀ j : Fin 16, j ≠ 8 → j ≠ 9 → t.eng.S[j] = s.eng.S[j] := by
  obtain ⟨st, -, rfl, -⟩ | ⟨key, nonce, rfl, -⟩ | ⟨din, z, -, -, -, rfl⟩ | ⟨-, -, rfl⟩ | ⟨-, -, -, rfl⟩ := exec_next h
  case inl => exact ⟨rfl, rfl, fun _ _ _ => rfl⟩
  case inr.inl => exact absurd rfl (hi key nonce)
  case inr.inr.inl => exact ⟨readyBlock_keyed s.eng, rfl, fun _ h8 h9 => readyBlock_S_other s.eng h8 h9⟩
  case inr.inr.inr.inl => exact ⟨rfl, rfl, fun _ h8 h9 => restartKeystream_S_other s.eng h8 h9⟩
  case inr.inr.inr.inr => exact ⟨rfl, rfl, fun _ _ _ => rfl⟩

/-- PROC below the end of the block, and RSTCUR, generate nothing. -/
theorem exec_keeps_block (hi : (∃ din, i = .proc din) ∧ s.eng.cursor ≠ 16#5 ∨ i = .rstcur) :
    t.eng.S = s.eng.S ∧ t.eng.B = s.eng.B ∧ t.eng.bvalid = s.eng.bvalid := by
  obtain ⟨st, -, rfl, -⟩ | ⟨key, nonce, rfl, -⟩ | ⟨din, z, rfl, -, -, rfl⟩ | ⟨hi', -⟩ | ⟨-, -, -, rfl⟩ := exec_next h
  case inl => exact ⟨rfl, rfl, rfl⟩
  case inr.inl => simp at hi
  case inr.inr.inl =>
    have hc : s.eng.cursor ≠ 16 := by simpa using hi
    simp [readyBlock_not_exhausted hc]
  case inr.inr.inr.inl => obtain rfl | rfl := hi' <;> simp at hi
  case inr.inr.inr.inr => exact ⟨rfl, rfl, rfl⟩

theorem exec_unkeyed_keeps_engine (hi : ∀ key nonce, i ≠ .init key nonce) (hk : s.eng.keyed = false) : t.eng = s.eng := by
  obtain ⟨st, -, rfl, -⟩ | ⟨key, nonce, rfl, -⟩ | ⟨din, z, -, hk', -⟩ | ⟨-, hk', -⟩ | ⟨-, hk', -⟩ := exec_next h
  case inl => rfl
  case inr.inl => exact absurd rfl (hi key nonce)
  all_goals simp [hk] at hk'

/-- R24: the only changes of the counter. -/
theorem exec_ctr :
    ctrOf t.eng.S = ctrOf s.eng.S ∨
    (ctrOf t.eng.S = ctrOf s.eng.S + 1#64 ∧ (∃ din, i = .proc din) ∧ s.eng.cursor = 16#5) ∨
    (ctrOf t.eng.S = 0#64 ∧ ∃ key nonce, i = .init key nonce) ∨
    (ctrOf t.eng.S = 1#64 ∧ (i = .rstctr ∨ i = .rst)) := by
  obtain ⟨st, -, rfl, -⟩ | ⟨key, nonce, hi, rfl⟩ | ⟨din, z, hi, -, -, rfl⟩ | ⟨hi, -, rfl⟩ | ⟨-, -, -, rfl⟩ := exec_next h
  case inl => exact .inl rfl
  case inr.inl => exact .inr (.inr (.inl ⟨ctrOf_stateArray key nonce 0, key, nonce, hi⟩))
  case inr.inr.inl =>
    by_cases hc : s.eng.cursor = 16
    · refine .inr (.inl ⟨?_, ⟨din, hi⟩, hc⟩)
      rw [respond_eng, readyBlock_exhausted hc]
      exact ctrOf_ctrInc s.eng.S
    · refine .inl ?_
      rw [respond_eng, readyBlock_not_exhausted hc, advanceCursor_S]
  case inr.inr.inr.inl => exact .inr (.inr (.inr ⟨ctrOf_restartKeystream s.eng, hi⟩))
  case inr.inr.inr.inr => exact .inl rfl

end Frames

/-! ## Commands repeated -/

/-- A restart forgets the counter it finds, so a second one does the first one's work again. -/
theorem restartKeystream_idem (e : Engine) : restartKeystream (restartKeystream e) = restartKeystream e := by
  have hS : withCtr (restartKeystream e).S 0 = withCtr e.S 0 := by
    rw [restartKeystream_S, ctrInc, withCtr_withCtr, withCtr_withCtr]
  exact engine_ext (congrArg ctrInc hS) (congrArg salsa20Block hS) rfl rfl rfl

/-- A refused command repeated is refused again. -/
theorem refuse_repeats {i : Instr} {s : State} {st : Status} (h : exec i s = .next (refuse st s)) :
    ∃ u, exec i (refuse st s) = .next u ∧ u.eng = (refuse st s).eng ∧ u.rsp = (refuse st s).rsp :=
  answersAlike_exec i (refuse_eng st s) (refuse_draws st s) _ h

theorem exec_rstctr_repeats {s t : State} (h : exec .rstctr s = .next t) :
    ∃ u, exec .rstctr t = .next u ∧ u.eng = t.eng ∧ u.rsp = t.rsp := by
  cases hk : s.eng.keyed with
  | false =>
    have hrefused := exec_unkeyed (i := .rstctr) (by decide) hk
    obtain rfl : refuse .errNotKeyed s = t := Host.Outcome.next.inj (hrefused.symm.trans h)
    exact refuse_repeats h
  | true =>
    rw [exec_rstctr_keyed hk] at h
    cases h
    exact ⟨_, exec_rstctr_keyed hk, restartKeystream_idem s.eng, rfl⟩

theorem exec_rstcur_repeats {s t : State} (h : exec .rstcur s = .next t) :
    ∃ u, exec .rstcur t = .next u ∧ u.eng = t.eng ∧ u.rsp = t.rsp := by
  obtain ⟨st, -, rfl⟩ | ⟨hcheck, hrun⟩ := guarded_next h
  · exact refuse_repeats h
  · cases hrun
    obtain ⟨hk, hb⟩ := blockCheck_eq_none hcheck
    exact ⟨_, exec_rstcur_valid hk hb, rfl, rfl⟩

end Sys2Proof.Machine

namespace Sys2Proof
open Machine

/-- Settles O38: with the cursor in its range PROC completes; above it there is no word to read. -/
theorem procFaultsOnlyOutsideCursorRange : Obligations.ProcFaultsOnlyOutsideCursorRange := by
  unfold Obligations.ProcFaultsOnlyOutsideCursorRange
  intro din s hk
  constructor
  case mp =>
    intro hfault
    by_contra hle
    rw [execProc_next din hk (BitVec.not_lt.mp hle)] at hfault
    cases hfault
  case mpr =>
    intro hc
    rw [exec_proc, keyedCheck_keyed hk, guarded_none, consumeWord_fault din hc]

/-- Settles O39: the refusal by the check, the rest by the fields a restart leaves. -/
theorem rstctrRegeneratesBlockZero : Obligations.RstctrRegeneratesBlockZero := by
  unfold Obligations.RstctrRegeneratesBlockZero
  exact fun s => ⟨exec_unkeyed (by decide), exec_rstctr_completes⟩

/-- Settles O40: the two refusals by the checks in their order, the rest by the fields a rewinding leaves. -/
theorem rstcurRewindsTheCursorOnly : Obligations.RstcurRewindsTheCursorOnly := by
  unfold Obligations.RstcurRewindsTheCursorOnly
  exact fun s => ⟨exec_unkeyed (by decide), exec_rstcur_noBlock,
    fun hk hb => ⟨_, exec_rstcur_valid hk hb, rfl, rfl, rfl, rfl, rfl, hk, hb, rfl, rfl⟩⟩

/-- Settles O41: RST's second half rewinds a cursor that its first half left at 0. -/
theorem rstEqualsRstctr : Obligations.RstEqualsRstctr := by
  unfold Obligations.RstEqualsRstctr
  exact fun s => ⟨exec_rst_eq_exec_rstctr s, by rw [exec_rst_eq_exec_rstctr]; exact exec_rstctr_completes⟩

/-- Settles O43: each clause is the frame rule of what the command can do. -/
theorem commandFrames : Obligations.CommandFrames := by
  unfold Obligations.CommandFrames
  intro i s t h
  obtain ⟨r, -, hhistory⟩ := exec_responds h
  refine ⟨exec_inputs h, ⟨r, hhistory⟩, exec_frame_of_not_init h, fun din hi hc => exec_keeps_block h (.inl ⟨⟨din, hi⟩, hc⟩),
    fun hi => exec_keeps_block h (.inr hi), ?reserved, exec_unkeyed_keeps_engine h⟩
  case reserved => rintro (rfl | rfl | rfl) <;> cases h <;> rfl

/-- Settles O44: by what the command can do to the State array. -/
theorem noCommandSeeks : Obligations.NoCommandSeeks := by
  unfold Obligations.NoCommandSeeks
  exact fun _ _ _ => exec_ctr

/-- Settles O46: a refused command is refused again, a second restart or rewinding finds what it would write, and INIT looks at
nothing but its operands. -/
theorem resetCommandsAreIdempotent : Obligations.ResetCommandsAreIdempotent := by
  unfold Obligations.ResetCommandsAreIdempotent
  refine fun i s t h => ⟨?resets, ?init⟩
  case resets =>
    rintro (rfl | rfl | rfl)
    · exact exec_rstctr_repeats h
    · rw [exec_rst_eq_exec_rstctr] at h ⊢
      exact exec_rstctr_repeats h
    · exact exec_rstcur_repeats h
  case init =>
    rintro key nonce rfl
    cases h
    exact ⟨_, exec_init _ key nonce, rfl, rfl, rfl, rfl, rfl⟩

/-- Settles O47: INIT's fresh engine is restarted by RSTCTR and RST, and at its cursor 16 PROC generates first; either way the
block is that of counter 0. -/
theorem threeStartingPoints : Obligations.ThreeStartingPoints := by
  unfold Obligations.ThreeStartingPoints
  intro key nonce din s
  refine ⟨_, exec_init s key nonce, ⟨ctrOf_stateArray key nonce 0, rfl, rfl⟩, ?restart, ?proc⟩
  case restart =>
    have hrestart := exec_rstctr_keyed
      (s := complete (freshEngine key nonce (Config.freeBlock s.draws)) { s with draws := s.draws + 16 }) rfl
    have hblock : salsa20Block (withCtr (stateArray key nonce 0) 0) = keystreamBlock key nonce 0#64 := by
      rw [withCtr_stateArray]
      rfl
    rintro i (rfl | rfl)
    · exact ⟨_, hrestart, ctrOf_restartKeystream _, rfl, rfl, hblock⟩
    · exact ⟨_, (exec_rst_eq_exec_rstctr _).trans hrestart, ctrOf_restartKeystream _, rfl, rfl, hblock⟩
  case proc =>
    refine ⟨_, execProc_exhausted_next din rfl rfl, ?_, rfl, rfl, rfl⟩
    rw [respond_eng, advanceCursor_S, generateBlock_S, ctrOf_ctrInc, complete_eng, freshEngine_S, ctrOf_stateArray]
    rfl

/-- Settles O16: PROC on the fresh engine generates the known block and answers its word 0. -/
theorem knownAnswerForZeroKeyAndNonce : Obligations.KnownAnswerForZeroKeyAndNonce := by
  unfold Obligations.KnownAnswerForZeroKeyAndNonce
  intro s
  refine ⟨_, _, exec_init s 0#256 0#64, execProc_exhausted_next 0#32 rfl rfl, ?word, keystreamBlock_zero⟩
  case word =>
    have hword : xor32 0#32 (keystreamBlock 0#256 0#64 0#64)[0] = 0x5bf6979a#32 := by
      rw [keystreamBlock_zero]
      decide
    exact congrArg (fun w => some (Response.mk .ok w)) hword

end Sys2Proof
end

section
/-!
PROOFS. The statements about one step: 20_memory.md sections 1, 4 and 5, 70_reset_and_hazards.md section 1, and what the `dout`
port shows (30_encoding.md section 1).
-/

namespace Sys2Proof.Machine

theorem wellFormed_eq_true (i : Instr) : i.wellFormed = true := by
  cases i <;> rfl

/-! ## One sample -/

section Sample
variable {p : PortSample}

theorem onSample_reset (hr : p.rst = true) (s : State) : onSample p s = .next (hwReset s) := by
  simp [onSample, hr]

theorem onSample_offer (hr : p.rst = false) (hv : p.cmdValid = true) (s : State) :
    onSample p s = exec (decodeCommand p.cmd) s := by
  simp [onSample, hr, hv]

theorem onSample_idle (hr : p.rst = false) (hv : p.cmdValid = false) (s : State) : onSample p s = .next (idle s) := by
  simp [onSample, hr, hv]

end Sample

/-- R29: of the commands only INIT writes the key flag, and it sets it. -/
theorem exec_keyed {i : Instr} {s t : State} (h : exec i s = .next t) :
    t.eng.keyed = s.eng.keyed ∨ (t.eng.keyed = true ∧ i.op = 1#3) := by
  by_cases hi : i.op = 1#3
  · cases i with
    | init key nonce => cases h; exact .inr ⟨rfl, hi⟩
    | _ => simp [Instr.op] at hi
  · have hinit : ∀ key nonce, i ≠ .init key nonce := by
      rintro key nonce rfl
      exact hi rfl
    obtain ⟨hkeyed, -⟩ := exec_frame_of_not_init h hinit
    exact .inl hkeyed

/-! ## The inputs still to come change nothing of a step -/

/-- Whatever the host drives later, a check refuses alike, and behind it the command does the same. -/
theorem guarded_with_inputs {c : Option Status} {s t : State} {run run' : Host.Outcome State Fault Refusal}
    {ins : List PortSample} (h : guarded c s run = .next t) (hrun : run = .next t → run' = .next { t with inputs := ins }) :
    guarded c { s with inputs := ins } run' = .next { t with inputs := ins } := by
  obtain ⟨st, rfl, rfl⟩ | ⟨rfl, hnext⟩ := guarded_next h
  · rfl
  · exact hrun hnext

theorem exec_with_inputs {i : Instr} {s t : State} (h : exec i s = .next t) (ins : List PortSample) :
    exec i { s with inputs := ins } = .next { t with inputs := ins } := by
  cases i with
  | init | reserved0 | reserved6 | reserved7 => cases h; rfl
  | rstctr | rstcur | rst =>
    refine guarded_with_inputs h fun hrun => ?_
    cases hrun
    rfl
  | proc din =>
    refine guarded_with_inputs h fun hrun => ?_
    obtain ⟨z, hz, rfl⟩ := consumeWord_cases hrun
    simp [consumeWord, hz, respond]

theorem onSample_with_inputs {p : PortSample} {s t : State} (h : onSample p s = .next t) (ins : List PortSample) :
    onSample p { s with inputs := ins } = .next { t with inputs := ins } := by
  obtain ⟨hr, rfl⟩ | ⟨hr, hv, hexec⟩ | ⟨hr, hv, rfl⟩ := onSample_next h
  · exact onSample_reset hr _
  · rw [onSample_offer hr hv]
    exact exec_with_inputs hexec ins
  · exact onSample_idle hr hv _

/-- No step drives the ports. -/
theorem onSample_inputs {p : PortSample} {s t : State} (h : onSample p s = .next t) : t.inputs = s.inputs := by
  obtain ⟨-, rfl⟩ | ⟨-, -, hexec⟩ | ⟨-, -, rfl⟩ := onSample_next h
  · rfl
  · exact exec_inputs hexec
  · rfl

/-! ## Steps and runs -/

/-- A run that reached a state began with a sample that did. -/
theorem runSamples_cons_next {p : PortSample} {ps : List PortSample} {s t : State} (h : runSamples (p :: ps) s = .next t) :
    ∃ s', onSample p s = .next s' ∧ runSamples ps s' = .next t := by
  cases hp : onSample p s with
  | next s' => exact ⟨s', rfl, by rwa [runSamples_cons hp] at h⟩
  | fault r => simp [runSamples, hp] at h
  | refused r => simp [runSamples, hp] at h

theorem run_succ {s s' : State} (h : step s = .next s') (n : Nat) :
    Host.Core.run core (n + 1) s = Host.Core.run core n s' := by
  have hstep : core.step s = .next s' := h
  simp [Host.Core.run, hstep]

/-- R169: stepping takes the samples one by one, and each acts as it does with nothing after it. -/
theorem run_eq_runSamples {ps rest : List PortSample} {s t : State} (hin : s.inputs = ps ++ rest)
    (h : runSamples ps { s with inputs := rest } = .next t) :
    Host.Core.run core ps.length s = .next t ∧ t.inputs = rest := by
  induction ps generalizing s with
  | nil =>
    have hs : { s with inputs := rest } = s := by rw [← show s.inputs = rest from hin]
    rw [hs] at h
    cases h
    exact ⟨rfl, hin⟩
  | cons p ps ih =>
    obtain ⟨s', hp, hrun⟩ := runSamples_cons_next h
    have hstep : step s = .next { s' with inputs := ps ++ rest } := by
      rw [step_cons hin]
      exact onSample_with_inputs hp (ps ++ rest)
    have hrest : { s' with inputs := rest } = s' := by rw [← show s'.inputs = rest from onSample_inputs hp]
    rw [List.length_cons, run_succ hstep]
    exact ih rfl (hrest.symm ▸ hrun)

/-! ## The `dout` port -/

theorem dout_of_not_rspValid {s : State} (h : rspValid s = false) : dout s = 0#32 := by
  have hnone : s.rsp = none := by simpa [rspValid] using h
  simp [dout, hnone]

/-- R64: no command shows a word but PROC on a keyed engine. -/
theorem dout_exec_eq_zero {i : Instr} {s t : State} (h : exec i s = .next t) (hi : i.op ≠ 2#3 ∨ s.eng.keyed = false) :
    dout t = 0#32 := by
  obtain ⟨st, -, rfl, -⟩ | ⟨key, nonce, -, rfl⟩ | ⟨din, z, rfl, hk, -⟩ | ⟨-, -, rfl⟩ | ⟨-, -, -, rfl⟩ := exec_next h
  case inr.inr.inl => simp [Instr.op, hk] at hi
  all_goals rfl

theorem dout_onSample_eq_zero {p : PortSample} {s t : State} (h : onSample p s = .next t)
    (hp : p.rst = true ∨ p.cmdValid = false ∨ p.cmd.op ≠ 2#3 ∨ s.eng.keyed = false) : dout t = 0#32 := by
  obtain ⟨-, rfl⟩ | ⟨hr, hv, hexec⟩ | ⟨-, -, rfl⟩ := onSample_next h
  · exact dout_hwReset s
  · refine dout_exec_eq_zero hexec ?_
    rw [op_decodeCommand]
    simpa [hr, hv] using hp
  · exact dout_idle s

end Sys2Proof.Machine

namespace Sys2Proof
open Machine

/-- Settles O26: the flat vector decodes as the record does, and the sample is taken. -/
theorem stepRunsTheDecodedCommand : Obligations.StepRunsTheDecodedCommand := by
  unfold Obligations.StepRunsTheDecodedCommand
  rintro s p rest _ hin hr hv rfl
  exact ⟨wellFormed_eq_true _, by rw [step_cons hin, onSample_offer hr hv, decode_flat]⟩

/-- Settles O27: a host with no sample left and one that offers nothing leave the engine idle. -/
theorem idleStepChangesNoEngineState : Obligations.IdleStepChangesNoEngineState := by
  unfold Obligations.IdleStepChangesNoEngineState
  rintro s (hin | ⟨p, rest, hin, hr, hv⟩)
  · exact ⟨_, step_nil hin, rfl, rfl, rfl, rfl, by rw [idle_inputs, hin, List.tail_nil]⟩
  · exact ⟨_, (step_cons hin).trans (onSample_idle hr hv _), rfl, rfl, rfl, rfl, by rw [idle_inputs, hin, List.tail_cons]⟩

/-- Settles O28: reset is looked at before the offer. -/
theorem hardwareResetBeatsAnyCommand : Obligations.HardwareResetBeatsAnyCommand := by
  unfold Obligations.HardwareResetBeatsAnyCommand
  intro s p rest hin hr
  exact ⟨_, (step_cons hin).trans (onSample_reset hr _), rfl, rfl, rfl, rfl, rfl, rfl, ctrPort_unkeyed rfl, rfl⟩

/-- Settles O30: a command gives one response, and the idle engine and the reset give none. -/
theorem oneResponsePerAcceptedCommand : Obligations.OneResponsePerAcceptedCommand := by
  unfold Obligations.OneResponsePerAcceptedCommand
  intro s t p rest hin h
  rw [step_cons hin] at h
  refine ⟨fun hr hv => ?offer, fun hr hv => ?idle, fun hr => ?reset⟩
  case offer =>
    rw [onSample_offer hr hv] at h
    exact exec_responds (s := { s with inputs := rest }) h
  case idle =>
    rw [onSample_idle hr hv] at h
    cases h
    exact ⟨rfl, rfl⟩
  case reset =>
    rw [onSample_reset hr] at h
    cases h
    exact ⟨rfl, rfl⟩

/-- Settles O31: by induction on the samples, since no sample's effect depends on those after it. -/
theorem stepsFollowTheOfferedOrder : Obligations.StepsFollowTheOfferedOrder := by
  unfold Obligations.StepsFollowTheOfferedOrder
  exact fun _ _ _ _ => run_eq_runSamples

/-- Settles O45: without reset, a step that changes the key flag is an offered INIT. -/
theorem onlyHardwareResetForgetsTheKey : Obligations.OnlyHardwareResetForgetsTheKey := by
  unfold Obligations.OnlyHardwareResetForgetsTheKey
  intro s t p rest hin h hr
  rw [step_cons hin] at h
  cases hv : p.cmdValid with
  | false =>
    rw [onSample_idle hr hv] at h
    cases h
    exact ⟨id, fun hk hk' => absurd (hk.symm.trans hk') Bool.false_ne_true⟩
  | true =>
    rw [onSample_offer hr hv] at h
    obtain hsame | ⟨hset, hop⟩ := exec_keyed h
    · exact ⟨fun hk => hsame.trans hk, fun hk hk' => absurd (hk.symm.trans (hsame.symm.trans hk')) Bool.false_ne_true⟩
    · rw [op_decodeCommand] at hop
      exact ⟨fun _ => hset, fun _ _ => ⟨rfl, hop⟩⟩

/-- Settles O59: the answers that carry no word show 0; PROC on a keyed engine shows its XOR result, by its two rules. -/
theorem doutPortShowsXorResultElseZero : Obligations.DoutPortShowsXorResultElseZero := by
  unfold Obligations.DoutPortShowsXorResultElseZero
  refine ⟨rfl, fun _ _ _ => dout_of_not_rspValid, fun s t p rest hin h => ?samples⟩
  case samples =>
    rw [step_cons hin] at h
    refine ⟨dout_onSample_eq_zero (s := { s with inputs := rest }) h, fun hr hv hop hk => ?proc⟩
    rw [onSample_offer hr hv, decodeCommand_proc hop] at h
    refine ⟨fun hc => ?within, fun hc => ?exhausted⟩
    case within =>
      cases (execProc_within_next (s := { s with inputs := rest }) p.cmd.din hk hc).symm.trans h
      rfl
    case exhausted =>
      cases (execProc_exhausted_next (s := { s with inputs := rest }) p.cmd.din hk hc).symm.trans h
      rfl

end Sys2Proof
end

section
/-!
PROOFS. The statements about buffers of PROC commands: 42_commands.md section 3, the closed form of the keystream
(41_block_generator.md), and RSTCUR's replay (90_conflicts.md C6). A run is described by two functions of the engine alone: the
engine one word later, and the word that PROC reads next.
-/

namespace Sys2Proof.Machine

/-! ## One word, and a buffer of them -/

/-- The engine after one PROC (R122). -/
def consumeOne (e : Engine) : Engine := advanceCursor (readyBlock e)

/-- The keystream word the next PROC reads; `execProc_eq` ties it to PROC. -/
def nextWord (e : Engine) : Word := (keystreamWord (readyBlock e)).getD 0

/-- The answers to a buffer: each word XOR the keystream word that is next when it is processed. -/
def answers : Engine → List Word → List Word
  | _, [] => []
  | e, w :: ws => (w ^^^ nextWord e) :: answers (consumeOne e) ws

theorem execProc_eq {s : State} (din : Word) (hk : s.eng.keyed = true) (hc : s.eng.cursor ≤ 16#5) :
    exec (.proc din) s = .next (respond .ok (din ^^^ nextWord s.eng) { s with eng := consumeOne s.eng }) := by
  rw [execProc_next din hk hc, nextWord, keystreamWord_lt (readyBlock_cursor_lt hc)]
  rfl

theorem consumeOne_keyed (e : Engine) : (consumeOne e).keyed = e.keyed := readyBlock_keyed e

/-- A buffer on a keyed engine with the cursor in its range: it completes, with these answers and this engine. -/
theorem process_eq (ws : List Word) {s : State} (hk : s.eng.keyed = true) (hc : s.eng.cursor ≤ 16#5) :
    ∃ t, process ws s = .next t ∧ t.eng = consumeOne^[ws.length] s.eng ∧ t.history = s.history ++ okWords (answers s.eng ws) := by
  induction ws generalizing s with
  | nil => exact ⟨s, rfl, rfl, (List.append_nil s.history).symm⟩
  | cons w ws ih =>
    have hproc := execProc_eq w hk hc
    obtain ⟨t, ht, heng, hhistory⟩ := ih (s := respond .ok (w ^^^ nextWord s.eng) { s with eng := consumeOne s.eng })
      ((consumeOne_keyed s.eng).trans hk) (advanceCursor_le hc)
    refine ⟨t, (process_cons hproc).trans ht, heng, ?_⟩
    rw [hhistory, respond_history, List.append_assoc]
    rfl

/-! ## Encryption undone -/

/-- The same keystream word XORed twice cancels. -/
theorem answers_answers (e : Engine) (ws : List Word) : answers e (answers e ws) = ws := by
  induction ws generalizing e with
  | nil => rfl
  | cons w ws ih =>
    have hword : w ^^^ nextWord e ^^^ nextWord e = w := xor32_xor32_cancel w (nextWord e)
    rw [answers, answers, ih (consumeOne e), hword]

/-! ## Replay -/

/-- A run depends on its engine only through the block that PROC reads from. -/
theorem consumeOne_congr {e e' : Engine} (h : readyBlock e = readyBlock e') : consumeOne e = consumeOne e' := by
  rw [consumeOne, consumeOne, h]

theorem answers_congr {e e' : Engine} (h : readyBlock e = readyBlock e') (ws : List Word) : answers e ws = answers e' ws := by
  cases ws with
  | nil => rfl
  | cons w ws => rw [answers, answers, nextWord, nextWord, h, consumeOne_congr h]

theorem iterate_consumeOne_congr {e e' : Engine} (h : readyBlock e = readyBlock e') {n : Nat} (hn : n ≠ 0) :
    consumeOne^[n] e = consumeOne^[n] e' := by
  obtain ⟨m, rfl⟩ := Nat.exists_eq_succ_of_ne_zero hn
  rw [Function.iterate_succ_apply, Function.iterate_succ_apply, consumeOne_congr h]

/-- From word 0 of a block up to its end only the cursor moves. -/
theorem iterate_consumeOne_within {e : Engine} (hc : e.cursor = 0#5) {n : Nat} (hn : n ≤ 16) :
    consumeOne^[n] e = { e with cursor := BitVec.ofNat 5 n } := by
  induction n with
  | zero => exact engine_ext rfl rfl hc rfl rfl
  | succ n ih =>
    have hlast : BitVec.ofNat 5 n ≠ 16 := by
      intro h
      have hval : n % 2 ^ 5 = 16 := by rw [← BitVec.toNat_ofNat, h]; rfl
      omega
    rw [Function.iterate_succ_apply', ih (by omega), consumeOne, readyBlock_not_exhausted hlast]
    exact engine_ext rfl rfl (BitVec.ofNat_add n 1).symm rfl rfl

/-- At cursor 16, or at cursor 0 of a valid block, PROC reads from word 0 of a valid block. -/
theorem readyBlock_at_start {e : Engine} (h : e.cursor = 16#5 ∨ (e.cursor = 0#5 ∧ e.bvalid = true)) :
    (readyBlock e).cursor = 0#5 ∧ (readyBlock e).bvalid = true := by
  obtain hc | ⟨hc, hb⟩ := h
  · rw [readyBlock_exhausted hc]
    exact ⟨rfl, rfl⟩
  · rw [readyBlock_not_exhausted (by rw [hc]; decide)]
    exact ⟨hc, hb⟩

theorem readyBlock_readyBlock {e : Engine} (h : e.cursor = 16#5 ∨ (e.cursor = 0#5 ∧ e.bvalid = true)) :
    readyBlock (readyBlock e) = readyBlock e := by
  obtain ⟨hc, -⟩ := readyBlock_at_start h
  exact readyBlock_not_exhausted (by rw [hc]; decide)

/-- A buffer that begins at word 0 of a block and ends in it leaves the block in place, so rewinding leads back to where PROC
began to read. -/
theorem rewindCursor_iterate_consumeOne {e : Engine} (h : e.cursor = 16#5 ∨ (e.cursor = 0#5 ∧ e.bvalid = true)) {n : Nat}
    (h0 : n ≠ 0) (hn : n ≤ 16) :
    (consumeOne^[n] e).bvalid = true ∧ rewindCursor (consumeOne^[n] e) = readyBlock e := by
  obtain ⟨hc, hb⟩ := readyBlock_at_start h
  rw [iterate_consumeOne_congr (readyBlock_readyBlock h).symm h0, iterate_consumeOne_within hc hn]
  exact ⟨hb, engine_ext rfl rfl hc.symm rfl rfl⟩

/-! ## The count of generations -/

/-- One word: the cursor goes on from 0 when it was 16, and then the counter is raised. -/
theorem consumeOne_count {e : Engine} (hc : e.cursor ≤ 16#5) :
    (consumeOne e).cursor.toNat = e.cursor.toNat % 16 + 1 ∧
      ctrOf (consumeOne e).S = ctrOf e.S + BitVec.ofNat 64 (e.cursor.toNat / 16) := by
  have hle : e.cursor.toNat ≤ 16 := hc
  have hcursor : (consumeOne e).cursor.toNat = (readyBlock e).cursor.toNat + 1 := advanceCursor_toNat hc
  rw [hcursor, consumeOne, advanceCursor_S]
  by_cases h : e.cursor = 16
  · rw [readyBlock_exhausted h, h]
    exact ⟨rfl, ctrOf_ctrInc e.S⟩
  · have hne : e.cursor.toNat ≠ 16 := fun h' => h (BitVec.eq_of_toNat_eq h')
    have hdiv : e.cursor.toNat / 16 = 0 := by omega
    rw [readyBlock_not_exhausted h, hdiv, BitVec.add_zero]
    exact ⟨by omega, rfl⟩

/-- R129, by induction on the words after the first. -/
theorem iterate_consumeOne_count {e : Engine} (hc : e.cursor ≤ 16#5) (n : Nat) :
    (consumeOne^[n + 1] e).cursor.toNat = (e.cursor.toNat + n) % 16 + 1 ∧
      ctrOf (consumeOne^[n + 1] e).S = ctrOf e.S + BitVec.ofNat 64 ((e.cursor.toNat + n) / 16) := by
  induction n with
  | zero => exact consumeOne_count hc
  | succ n ih =>
    obtain ⟨hcursor, hctr⟩ := ih
    have hrange : (consumeOne^[n + 1] e).cursor ≤ 16#5 := by
      rw [BitVec.le_def, hcursor]
      exact Nat.mod_lt _ (by decide)
    obtain ⟨hcursor', hctr'⟩ := consumeOne_count hrange
    rw [Function.iterate_succ_apply', hcursor', hctr', hcursor, hctr, BitVec.add_assoc, ← BitVec.ofNat_add]
    have hpos : ((e.cursor.toNat + n) % 16 + 1) % 16 + 1 = (e.cursor.toNat + (n + 1)) % 16 + 1 := by omega
    have hblocks : (e.cursor.toNat + n) / 16 + ((e.cursor.toNat + n) % 16 + 1) / 16 = (e.cursor.toNat + (n + 1)) / 16 := by
      omega
    rw [hpos, hblocks]
    exact ⟨rfl, rfl⟩

/-! ## The closed form -/

section ClosedForm
variable (key : BitVec 256) (nonce : BitVec 64)

/-- Word `m` of the keystream of a key and nonce: word `m mod 16` of block `m div 16` (R107). -/
def keystreamAt (m : Nat) : Word :=
  (keystreamBlock key nonce (BitVec.ofNat 64 (m / 16)))[m % 16]'(Nat.mod_lt m (by decide))

/-- The engine from which PROC reads word `m` of the keystream: block `m div 16` in `B`, the counter one further. -/
def engineAtWord (m : Nat) : Engine where
  S := stateArray key nonce (BitVec.ofNat 64 (m / 16 + 1))
  B := keystreamBlock key nonce (BitVec.ofNat 64 (m / 16))
  cursor := BitVec.ofNat 5 (m % 16)
  keyed := true
  bvalid := true

variable {key nonce}

theorem nextWord_of_readyBlock {e : Engine} {m : Nat} (h : readyBlock e = engineAtWord key nonce m) :
    nextWord e = keystreamAt key nonce m := by
  have hcursor : (engineAtWord key nonce m).cursor.toNat = m % 16 := Nat.mod_eq_of_lt (by omega)
  have hlt : (engineAtWord key nonce m).cursor.toNat < 16 := by omega
  simp only [nextWord, h, keystreamWord_lt hlt, Option.getD_some, hcursor]
  rfl

/-- After word `m` comes word `m + 1`, in the same block, or as word 0 of the next one. -/
theorem readyBlock_consumeOne {e : Engine} {m : Nat} (h : readyBlock e = engineAtWord key nonce m) :
    readyBlock (consumeOne e) = engineAtWord key nonce (m + 1) := by
  have hcursor : (consumeOne e).cursor = BitVec.ofNat 5 (m % 16 + 1) := by
    rw [consumeOne, h]
    exact (BitVec.ofNat_add (m % 16) 1).symm
  have hS : (consumeOne e).S = stateArray key nonce (BitVec.ofNat 64 (m / 16 + 1)) := by
    rw [consumeOne, h]
    rfl
  by_cases hlast : m % 16 = 15
  · have hdiv : (m + 1) / 16 = m / 16 + 1 := by omega
    have hmod : (m + 1) % 16 = 0 := by omega
    have hnext : ctrInc (stateArray key nonce (BitVec.ofNat 64 (m / 16 + 1))) =
        stateArray key nonce (BitVec.ofNat 64 (m / 16 + 1 + 1)) := by
      rw [ctrInc, ctrOf_stateArray, withCtr_stateArray, BitVec.ofNat_add (m / 16 + 1) 1]
      rfl
    rw [readyBlock_exhausted (by rw [hcursor, hlast]; rfl), engineAtWord, hdiv, hmod]
    refine engine_ext ?_ ?_ rfl ?_ rfl
    · rw [generateBlock_S, hS, hnext]
    · rw [generateBlock_B, hS, keystreamBlock]
    · rw [generateBlock_keyed, consumeOne, h]
      rfl
  · have hdiv : (m + 1) / 16 = m / 16 := by omega
    have hmod : (m + 1) % 16 = m % 16 + 1 := by omega
    have hne : (consumeOne e).cursor ≠ 16 := by
      rw [hcursor]
      intro h16
      have hval : (m % 16 + 1) % 2 ^ 5 = 16 := by rw [← BitVec.toNat_ofNat, h16]; rfl
      omega
    rw [readyBlock_not_exhausted hne, engineAtWord, hdiv, hmod]
    exact engine_ext hS (by rw [consumeOne, h]; rfl) hcursor (by rw [consumeOne, h]; rfl) (by rw [consumeOne, h]; rfl)

/-- From word `m` on the answers follow the keystream. -/
theorem answers_eq_mapIdx {e : Engine} {m : Nat} (h : readyBlock e = engineAtWord key nonce m) (ws : List Word) :
    answers e ws = ws.mapIdx fun k w => w ^^^ keystreamAt key nonce (m + k) := by
  induction ws generalizing e m with
  | nil => rfl
  | cons w ws ih =>
    rw [answers, List.mapIdx_cons, nextWord_of_readyBlock h, ih (readyBlock_consumeOne h)]
    simp only [Nat.add_zero, Nat.add_assoc, Nat.add_comm 1]

theorem readyBlock_freshEngine (b : Block) : readyBlock (freshEngine key nonce b) = engineAtWord key nonce 0 := by
  rw [readyBlock_exhausted rfl]
  refine engine_ext ?_ rfl rfl rfl rfl
  rw [generateBlock_S, freshEngine_S, ctrInc, ctrOf_stateArray, withCtr_stateArray]
  rfl

theorem readyBlock_restartKeystream {e : Engine} (h : e.HoldsKey key nonce) :
    readyBlock (restartKeystream e) = engineAtWord key nonce 0 := by
  obtain ⟨hk, harray⟩ := h
  have hzero : withCtr e.S 0 = stateArray key nonce 0 := by rw [harray, withCtr_stateArray]
  rw [readyBlock_not_exhausted (by rw [restartKeystream_cursor]; decide)]
  refine engine_ext ?_ ?_ rfl hk rfl
  · rw [restartKeystream_S, hzero, ctrInc, ctrOf_stateArray, withCtr_stateArray]
    rfl
  · rw [restartKeystream_B, hzero]
    rfl

/-- INIT, and RSTCTR or RST on an engine that holds the key, complete at word 0 of its keystream. -/
theorem exec_starts_keystream {i : Instr} {s t : State} (h : exec i s = .next t)
    (hi : i = .init key nonce ∨ (s.eng.HoldsKey key nonce ∧ (i = .rstctr ∨ i = .rst))) :
    t.eng.keyed = true ∧ t.eng.cursor ≤ 16#5 ∧ readyBlock t.eng = engineAtWord key nonce 0 := by
  obtain rfl | ⟨hholds, hi⟩ := hi
  · cases h
    exact ⟨rfl, BitVec.le_refl _, readyBlock_freshEngine _⟩
  · have hrestart : exec .rstctr s = .next t := by
      obtain rfl | rfl := hi
      exacts [h, (exec_rst_eq_exec_rstctr s).symm.trans h]
    have hk : s.eng.keyed = true := hholds.left
    rw [exec_rstctr_keyed hk] at hrestart
    cases hrestart
    exact ⟨hk, Nat.zero_le _, readyBlock_restartKeystream hholds⟩

end ClosedForm

end Sys2Proof.Machine

namespace Sys2Proof
open Machine

/-- Settles O54: the engine after the buffer is the word-by-word one, whose cursor and counter are counted by induction. -/
theorem generationCountOfAProcRun : Obligations.GenerationCountOfAProcRun := by
  unfold Obligations.GenerationCountOfAProcRun
  intro ws s hne hk hc
  obtain ⟨t, ht, heng, -⟩ := process_eq ws hk hc
  obtain ⟨w, ws, rfl⟩ := List.exists_cons_of_ne_nil hne
  obtain ⟨hcursor, hctr⟩ := iterate_consumeOne_count hc ws.length
  rw [List.length_cons] at heng ⊢
  exact ⟨t, ht, heng ▸ hctr, heng ▸ hcursor⟩

/-- Settles O55: the three commands start the keystream at its word 0, and each PROC goes on to the next word. -/
theorem keystreamHasItsClosedForm : Obligations.KeystreamHasItsClosedForm := by
  unfold Obligations.KeystreamHasItsClosedForm
  intro key nonce s t i ws h hi
  obtain ⟨hk, hc, hready⟩ := exec_starts_keystream h hi
  obtain ⟨u, hu, -, hhistory⟩ := process_eq ws hk hc
  refine ⟨u, hu, ?_⟩
  rw [hhistory, answers_eq_mapIdx hready]
  simp only [Nat.zero_add]
  rfl

/-- Settles O56: equal engines XOR the same keystream words, which cancel. -/
theorem processIsAnInvolution : Obligations.ProcessIsAnInvolution := by
  unfold Obligations.ProcessIsAnInvolution
  intro ps s t heng hk hc
  obtain ⟨s', hs', -, hhistory⟩ := process_eq ps hk hc
  rw [heng] at hk hc hhistory
  obtain ⟨t', ht', -, hhistory'⟩ := process_eq (answers t.eng ps) hk hc
  rw [answers_answers] at hhistory'
  exact ⟨_, s', t', hs', hhistory, ht', hhistory'⟩

/-- Settles O57: a run that reached a state goes on from there. -/
theorem splittingABufferMakesNoDifference : Obligations.SplittingABufferMakesNoDifference := by
  unfold Obligations.SplittingABufferMakesNoDifference
  intro xs ys s hk hc
  obtain ⟨as, t, has, ht, hthistory, hk', hc'⟩ := process_next xs hk hc
  obtain ⟨bs, u, hbs, hu, huhistory, -, -⟩ := process_next ys hk' hc'
  refine ⟨as, bs, t, u, has, hbs, ht, hthistory, hu, huhistory, (process_append ht).trans hu, ?_⟩
  rw [huhistory, hthistory, okWords_append, List.append_assoc]

/-- Settles O58: after the buffer the block is still the one it began with, so from the rewound engine PROC reads the same
words. -/
theorem rstcurReplaysTheCurrentBlock : Obligations.RstcurReplaysTheCurrentBlock := by
  unfold Obligations.RstcurReplaysTheCurrentBlock
  intro ws s hne hlength hk hstart
  have hc : s.eng.cursor ≤ 16#5 := by
    obtain hc | ⟨hc, -⟩ := hstart <;> rw [hc] <;> decide
  have h0 : ws.length ≠ 0 := by simpa using hne
  obtain ⟨t, ht, hteng, hthistory⟩ := process_eq ws hk hc
  obtain ⟨hb, hrewind⟩ := rewindCursor_iterate_consumeOne hstart h0 hlength
  rw [← hteng] at hb hrewind
  have htk : t.eng.keyed = true := (congrArg Engine.keyed hrewind).trans ((readyBlock_keyed s.eng).trans hk)
  have hready : readyBlock (rewindCursor t.eng) = readyBlock s.eng := by rw [hrewind, readyBlock_readyBlock hstart]
  obtain ⟨v, hv, hveng, hvhistory⟩ := process_eq ws (s := complete (rewindCursor t.eng) t) htk (Nat.zero_le _)
  rw [complete_eng, iterate_consumeOne_congr hready h0, ← hteng] at hveng
  rw [complete_eng, answers_congr hready] at hvhistory
  exact ⟨_, t, _, v, ht, hthistory, exec_rstcur_valid htk hb, hv, hvhistory, hveng⟩

end Sys2Proof
end
